-- ==== Sys2Proof/Word.lean ====
section
/-! DEFINITION. The word types of the core: u8, u12 and u16 of 00_scope.md R13, all unsigned. -/

namespace Sys2Proof

/-- u8: a memory cell, a general register or a timer (R21, R31, R32, R60). -/
abbrev Byte := BitVec 8

/-- u12: the nnn field, an address 0x000 to 0xFFF (R82). -/
abbrev Addr12 := BitVec 12

/-- u16: an instruction word, pc, I or a stack slot (R25, R28, R29, R80). -/
abbrev Word := BitVec 16

/-- A register index or a key index, 0x0 to 0xF (R21, R34). -/
abbrev Nibble := Fin 16

end Sys2Proof
end

