-- ==== Sys2Proof/Syntax.lean ====
section
/-! DEFINITION. The 34 instructions of 30_encoding.md R100, one constructor per row of spec/opcode_table.json, with the
fields each format of R84 uses. -/

namespace Sys2Proof

/-- An instruction with its fields (R82, R86). `x` and `y` name registers, `nn` is the immediate byte, `nnn` the 12-bit
address, `n` the sprite height. In `shr` and `shl` the field `y` is decoded and ignored (R84). -/
inductive Instr where
  /-- 00E0 CLS (R201). -/
  | cls
  /-- 00EE RET (R130). -/
  | ret
  /-- 1NNN JP nnn (R131). -/
  | jp (nnn : Addr12)
  /-- 2NNN CALL nnn (R132). -/
  | call (nnn : Addr12)
  /-- 3XNN SE Vx, nn (R133). -/
  | seImm (x : Nibble) (nn : Byte)
  /-- 4XNN SNE Vx, nn (R134). -/
  | sneImm (x : Nibble) (nn : Byte)
  /-- 5XY0 SE Vx, Vy (R135). -/
  | seReg (x y : Nibble)
  /-- 6XNN LD Vx, nn (R150). -/
  | ldImm (x : Nibble) (nn : Byte)
  /-- 7XNN ADD Vx, nn (R151). -/
  | addImm (x : Nibble) (nn : Byte)
  /-- 8XY0 LD Vx, Vy (R152). -/
  | ldReg (x y : Nibble)
  /-- 8XY1 OR Vx, Vy (R153). -/
  | or (x y : Nibble)
  /-- 8XY2 AND Vx, Vy (R154). -/
  | and (x y : Nibble)
  /-- 8XY3 XOR Vx, Vy (R155). -/
  | xor (x y : Nibble)
  /-- 8XY4 ADD Vx, Vy (R156). -/
  | addReg (x y : Nibble)
  /-- 8XY5 SUB Vx, Vy (R157). -/
  | sub (x y : Nibble)
  /-- 8XY6 SHR Vx (R158). -/
  | shr (x y : Nibble)
  /-- 8XY7 SUBN Vx, Vy (R159). -/
  | subn (x y : Nibble)
  /-- 8XYE SHL Vx (R160). -/
  | shl (x y : Nibble)
  /-- 9XY0 SNE Vx, Vy (R136). -/
  | sneReg (x y : Nibble)
  /-- ANNN LD I, nnn (R180). -/
  | ldI (nnn : Addr12)
  /-- BNNN JP V0, nnn (R137). -/
  | jpV0 (nnn : Addr12)
  /-- CXNN RND Vx, nn (R161). -/
  | rnd (x : Nibble) (nn : Byte)
  /-- DXYN DRW Vx, Vy, n (R202). -/
  | drw (x y : Nibble) (n : Nat)
  /-- EX9E SKP Vx (R220). -/
  | skp (x : Nibble)
  /-- EXA1 SKNP Vx (R221). -/
  | sknp (x : Nibble)
  /-- FX07 LD Vx, DT (R223). -/
  | ldVxDt (x : Nibble)
  /-- FX0A LD Vx, K (R222). -/
  | ldK (x : Nibble)
  /-- FX15 LD DT, Vx (R224). -/
  | ldDtVx (x : Nibble)
  /-- FX18 LD ST, Vx (R225). -/
  | ldStVx (x : Nibble)
  /-- FX1E ADD I, Vx (R181). -/
  | addI (x : Nibble)
  /-- FX29 LD F, Vx (R182). -/
  | ldF (x : Nibble)
  /-- FX33 LD B, Vx (R183). -/
  | ldB (x : Nibble)
  /-- FX55 LD [I], Vx (R184). -/
  | ldMemStore (x : Nibble)
  /-- FX65 LD Vx, [I] (R185). -/
  | ldMemLoad (x : Nibble)
  deriving DecidableEq, Repr

end Sys2Proof
end

