-- ==== Sys2Proof/Decode.lean ====
section
/-! DEFINITION. Instruction words and bytes to instructions and back (30_encoding.md R80 to R96): the fields of a word, the
two-level decoder, the encoder, and the decoder over bytes. -/

namespace Sys2Proof

/-! ## Fields -/

/-- `w[hi:lo]` as an unsigned number (R12). -/
def slice (w : Word) (hi lo : Nat) : Nat := w.toNat / 2 ^ lo % 2 ^ (hi + 1 - lo)

/-- The primary group F, w[15:12] (R82). -/
def fieldG (w : Word) : Nat := slice w 15 12

/-- The register field X, w[11:8] (R82). -/
def fieldX (w : Word) : Nibble := Fin.ofNat 16 (slice w 11 8)

/-- The register field Y, w[7:4] (R82). -/
def fieldY (w : Word) : Nibble := Fin.ofNat 16 (slice w 7 4)

/-- The low nibble N, w[3:0] (R82). -/
def fieldN (w : Word) : Nat := slice w 3 0

/-- The low byte NN, w[7:0] (R82). -/
def fieldNN (w : Word) : Byte := BitVec.ofNat 8 (slice w 7 0)

/-- The address NNN, w[11:0] (R82). -/
def fieldNNN (w : Word) : Addr12 := BitVec.ofNat 12 (slice w 11 0)

/-! ## Decoding -/

/-- Where a word leaves the opcode map: the six families of unknown opcodes of R93. -/
inductive UnknownKind where
  /-- 0x0000-0x0FFF except 0x00E0 and 0x00EE (R87, R96). -/
  | group0
  /-- 0x5XYn with n not 0 (R88). -/
  | group5
  /-- 0x8XYn with n in 8 to D or F (R89). -/
  | group8
  /-- 0x9XYn with n not 0 (R90). -/
  | group9
  /-- 0xEXnn with nn neither 9E nor A1 (R91). -/
  | groupE
  /-- 0xFXnn with nn outside the list of R92. -/
  | groupF
  deriving DecidableEq, Repr

/-- What a word decodes to: one instruction with its fields, or Unknown (R86). -/
inductive Decoded where
  | instr (i : Instr)
  | unknown (u : UnknownKind)
  deriving DecidableEq, Repr

/-- Group 0x0, whole words only (R87). -/
def decodeGroup0 (w : Word) : Decoded :=
  if w = 0x00E0 then .instr .cls else if w = 0x00EE then .instr .ret else .unknown .group0

/-- Group 0x5 (R88). -/
def decodeGroup5 (w : Word) : Decoded :=
  if fieldN w = 0 then .instr (.seReg (fieldX w) (fieldY w)) else .unknown .group5

/-- Group 0x8, dispatched on N (R89). -/
def decodeGroup8 (w : Word) : Decoded :=
  let x := fieldX w
  let y := fieldY w
  match fieldN w with
  | 0x0 => .instr (.ldReg x y)
  | 0x1 => .instr (.or x y)
  | 0x2 => .instr (.and x y)
  | 0x3 => .instr (.xor x y)
  | 0x4 => .instr (.addReg x y)
  | 0x5 => .instr (.sub x y)
  | 0x6 => .instr (.shr x y)
  | 0x7 => .instr (.subn x y)
  | 0xE => .instr (.shl x y)
  | _ => .unknown .group8

/-- Group 0x9 (R90). -/
def decodeGroup9 (w : Word) : Decoded :=
  if fieldN w = 0 then .instr (.sneReg (fieldX w) (fieldY w)) else .unknown .group9

/-- Group 0xE, dispatched on NN (R91). -/
def decodeGroupE (w : Word) : Decoded :=
  match slice w 7 0 with
  | 0x9E => .instr (.skp (fieldX w))
  | 0xA1 => .instr (.sknp (fieldX w))
  | _ => .unknown .groupE

/-- Group 0xF, dispatched on NN (R92). -/
def decodeGroupF (w : Word) : Decoded :=
  let x := fieldX w
  match slice w 7 0 with
  | 0x07 => .instr (.ldVxDt x)
  | 0x0A => .instr (.ldK x)
  | 0x15 => .instr (.ldDtVx x)
  | 0x18 => .instr (.ldStVx x)
  | 0x1E => .instr (.addI x)
  | 0x29 => .instr (.ldF x)
  | 0x33 => .instr (.ldB x)
  | 0x55 => .instr (.ldMemStore x)
  | 0x65 => .instr (.ldMemLoad x)
  | _ => .unknown .groupF

/-- The decode function, total over all words (R85, R86): the primary group first, then the secondary dispatch. The group
is below 16, so the last arm is group 0xF. -/
def decode (w : Word) : Decoded :=
  match fieldG w with
  | 0x0 => decodeGroup0 w
  | 0x1 => .instr (.jp (fieldNNN w))
  | 0x2 => .instr (.call (fieldNNN w))
  | 0x3 => .instr (.seImm (fieldX w) (fieldNN w))
  | 0x4 => .instr (.sneImm (fieldX w) (fieldNN w))
  | 0x5 => decodeGroup5 w
  | 0x6 => .instr (.ldImm (fieldX w) (fieldNN w))
  | 0x7 => .instr (.addImm (fieldX w) (fieldNN w))
  | 0x8 => decodeGroup8 w
  | 0x9 => decodeGroup9 w
  | 0xA => .instr (.ldI (fieldNNN w))
  | 0xB => .instr (.jpV0 (fieldNNN w))
  | 0xC => .instr (.rnd (fieldX w) (fieldNN w))
  | 0xD => .instr (.drw (fieldX w) (fieldY w) (fieldN w))
  | 0xE => decodeGroupE w
  | _ => decodeGroupF w

/-! ## Bytes -/

/-- The word of two consecutive bytes, the first in bits 15:8 (R67, R112). -/
def wordOfBytes (hi lo : Byte) : Word := BitVec.ofNat 16 (hi.toNat * 256 + lo.toNat)

/-- Bits 15:8 of a word, the byte stored at the lower address (R67). -/
def highByte (w : Word) : Byte := BitVec.ofNat 8 (slice w 15 8)

/-- Bits 7:0 of a word, the byte stored at the higher address (R67). -/
def lowByte (w : Word) : Byte := BitVec.ofNat 8 (slice w 7 0)

/-- What a byte sequence begins with: an instruction and the bytes after it, an unknown opcode, or too few bytes for the
one instruction length of R80. -/
inductive DecodedBytes where
  | instr (i : Instr) (rest : List Byte)
  | unknown (u : UnknownKind) (w : Word) (rest : List Byte)
  | truncated
  deriving DecidableEq, Repr

/-- The decoder over bytes as memory holds them (R80, R112), total on any bytes. -/
def decodeBytes : List Byte → DecodedBytes
  | hi :: lo :: rest =>
    match decode (wordOfBytes hi lo) with
    | .instr i => .instr i rest
    | .unknown u => .unknown u (wordOfBytes hi lo) rest
  | [_] => .truncated
  | [] => .truncated

/-- The word of a table row's `nbits` low bits, the bits above them 0. -/
def tableWord (nbits w : Nat) : Word := BitVec.ofNat 16 (w % 2 ^ nbits)

/-- The instruction the decoder reads from a word numbered as spec/opcode_table.json numbers it (bit 0 least significant),
laid out in memory order, high byte first. -/
def decodeTableWord (nbits w : Nat) : Option Instr :=
  match decodeBytes [highByte (tableWord nbits w), lowByte (tableWord nbits w)] with
  | .instr i _ => some i
  | .unknown _ _ _ => none
  | .truncated => none

/-! ## Encoding -/

/-- The word with the four nibbles F, X, Y, N (R81). -/
def nibbles (g x y n : Nat) : Word := BitVec.ofNat 16 (g * 4096 + x * 256 + y * 16 + n)

/-- The word of format XNN (R84), also of format X, whose low byte is fixed. -/
def formatXNN (g : Nat) (x : Nibble) (nn : Nat) : Word := BitVec.ofNat 16 (g * 4096 + x.val * 256 + nn)

/-- The word of format NNN (R84). -/
def formatNNN (g : Nat) (nnn : Addr12) : Word := BitVec.ofNat 16 (g * 4096 + nnn.toNat)

/-- The word of an instruction, from the patterns of R87 to R92. -/
def encode : Instr → Word
  | .cls => 0x00E0
  | .ret => 0x00EE
  | .jp nnn => formatNNN 0x1 nnn
  | .call nnn => formatNNN 0x2 nnn
  | .seImm x nn => formatXNN 0x3 x nn.toNat
  | .sneImm x nn => formatXNN 0x4 x nn.toNat
  | .seReg x y => nibbles 0x5 x.val y.val 0x0
  | .ldImm x nn => formatXNN 0x6 x nn.toNat
  | .addImm x nn => formatXNN 0x7 x nn.toNat
  | .ldReg x y => nibbles 0x8 x.val y.val 0x0
  | .or x y => nibbles 0x8 x.val y.val 0x1
  | .and x y => nibbles 0x8 x.val y.val 0x2
  | .xor x y => nibbles 0x8 x.val y.val 0x3
  | .addReg x y => nibbles 0x8 x.val y.val 0x4
  | .sub x y => nibbles 0x8 x.val y.val 0x5
  | .shr x y => nibbles 0x8 x.val y.val 0x6
  | .subn x y => nibbles 0x8 x.val y.val 0x7
  | .shl x y => nibbles 0x8 x.val y.val 0xE
  | .sneReg x y => nibbles 0x9 x.val y.val 0x0
  | .ldI nnn => formatNNN 0xA nnn
  | .jpV0 nnn => formatNNN 0xB nnn
  | .rnd x nn => formatXNN 0xC x nn.toNat
  | .drw x y n => nibbles 0xD x.val y.val n
  | .skp x => formatXNN 0xE x 0x9E
  | .sknp x => formatXNN 0xE x 0xA1
  | .ldVxDt x => formatXNN 0xF x 0x07
  | .ldK x => formatXNN 0xF x 0x0A
  | .ldDtVx x => formatXNN 0xF x 0x15
  | .ldStVx x => formatXNN 0xF x 0x18
  | .addI x => formatXNN 0xF x 0x1E
  | .ldF x => formatXNN 0xF x 0x29
  | .ldB x => formatXNN 0xF x 0x33
  | .ldMemStore x => formatXNN 0xF x 0x55
  | .ldMemLoad x => formatXNN 0xF x 0x65

end Sys2Proof
end

