-- ==== Sys2Proof/Machine/Flags.lean ====
section
/-! DEFINITION. The flag computations of 42_alu.md R163, each on the operand values at the start of the instruction. -/

namespace Sys2Proof.Machine

/-- A flag as the byte VF holds: 1 or 0 (R23, R40). -/
def flagByte (b : Bool) : Byte := if b then 1 else 0

/-- 8XY4: the unsigned sum of the source values exceeds 255 (R156). -/
def carryOf (vx vy : Byte) : Bool := decide (vx.toNat + vy.toNat > 255)

/-- 8XY5 and 8XY7: no borrow occurs, the minuend is at least the subtrahend (R157, R159). -/
def noBorrowOf (minuend subtrahend : Byte) : Bool := decide (minuend.toNat ≥ subtrahend.toNat)

/-- 8XY6: the bit shifted out, bit 0 before the shift (R158). -/
def lowBitOf (vx : Byte) : Bool := vx.getLsbD 0

/-- 8XYE: the bit shifted out, bit 7 before the shift (R160). -/
def highBitOf (vx : Byte) : Bool := vx.getLsbD 7

/-- FX1E: the sum exceeds 0xFFF (R181). -/
def indexOverflowOf (i : Word) (vx : Byte) : Bool := decide (i.toNat + vx.toNat > 0xFFF)

end Sys2Proof.Machine
end

