-- ==== Sys2Proof/Config.lean ====
section
/-! DEFINITION. The parameters of 00_scope.md R10 and the one free value of the model. The table FONT of R10 is
`Sys2Proof.Machine.fontTable`, beside the memory background that reads it. The other parameters of R10 (KEY_TIE_BREAK,
TIMER_TICK, FLAG_WINS, PROTECT_LOW) are orders of writes and tests, and stand in the operations that make them
(assumption log 12). -/

namespace Sys2Proof.Config

/-- MEM_SIZE: bytes of memory (R10). -/
abbrev memSize : Nat := 4096

/-- PROG_BASE: the first program address and the reset pc (R10, R282). -/
abbrev progBase : Nat := 0x200

/-- PROG_MAX: the largest loadable program in bytes, 4096 - 0x200 (R10, R77). -/
abbrev progMax : Nat := 3584

/-- FONT_BASE: the address of glyph 0 (R10, D18; assumption log 6). -/
abbrev fontBase : Nat := 0x000

/-- FONT_GLYPH_BYTES: bytes per glyph (R10). -/
abbrev glyphBytes : Nat := 5

/-- FB_W: framebuffer columns (R10). -/
abbrev fbWidth : Nat := 64

/-- UNKNOWN_PC_ADVANCE: the pc increment on an unknown opcode (R10, D6). -/
abbrev unknownPcAdvance : Word := 2

/-- The free value of the model: the byte `rnd` of the k-th CXNN, any byte, with no law between draws (R11, R161, D19).
DESIGN CHOICE, safe (assumption log 1). -/
opaque randomByte : Nat → Byte

end Sys2Proof.Config
end

