-- ==== Sys2Proof/Machine/State.lean ====
section
/-! DEFINITION. The state of the core (10_state.md R20 to R42), the fatal kinds and the refusal type, and the state after
reset. -/

namespace Sys2Proof.Machine

/-- The fatal kinds of 60_exceptions.md R242 to R247, which the fault record of R249 names. The spec gives the state a
fatal fault leaves (R120, R241, R251), so each is taken as a NEXT state in which `halted` is set, and no step of the model
answers the outcome `fault` (assumption log 2). -/
inductive Fault where
  /-- Raised by the fetch of a step with pc + 1 >= 4096 (R242). Safe: the resulting state is the spec's. -/
  | fetchOutOfBounds
  /-- Raised by DXYN, FX33, FX55 and FX65 whose range reaches 4096 (R243). Safe: the resulting state is the spec's. -/
  | memOutOfBounds
  /-- Raised by 2NNN with sp = 16 (R244). Safe: the resulting state is the spec's. -/
  | stackOverflow
  /-- Raised by 00EE with sp = 0 (R245). Safe: the resulting state is the spec's. -/
  | stackUnderflow
  /-- Raised by EX9E and EXA1 with vx >= 16 (R247, D12). Safe: the resulting state is the spec's. -/
  | keyOutOfRange
  deriving DecidableEq, Repr

/-- Why an instruction has no meaning. -/
inductive Refusal where
  /-- Raised by an arm of `exec` whose instruction is not modelled yet, by its mnemonic. No arm raises it now. Safe. -/
  | notModelled (mnemonic : String)
  deriving DecidableEq, Repr

/-- The fault record `(kind, code, info, pc, w)` of R249. The code follows from the kind (`FaultRecord.code`, assumption
log 15); `word` is none for a fetch fault. -/
structure FaultRecord where
  kind : Fault
  info : Nat
  pc   : Word
  word : Option Word
  deriving DecidableEq, Repr

/-- The result of a load (20_memory.md R77, R248). -/
inductive LoadResult where
  | ok
  | programTooLarge (len : Nat)
  deriving DecidableEq, Repr

/-- Memory as the bytes that differ from what an unlisted address reads as, in one canonical form (`Memory.wf`). -/
abbrev Memory := List Host.Cell

/-- The framebuffer: 2048 cells of one bit, as 32 rows of 64 (R33; assumption log 17). Cell k is bit k mod 64 of row
k div 64, its column and row. -/
abbrev FrameBuffer := Vector (BitVec 64) 32

/-- The index of a framebuffer cell, 0 to FB_CELLS - 1 = 2047 (R10, R33). -/
abbrev CellIdx := Fin 2048

/-- The machine's state, one field per item of R20, R37, R38 and R41, and the model's own counter of random draws. -/
structure State where
  /-- V0 to VF (R21). -/
  v : Vector Byte 16
  /-- The index register I (R28). -/
  i : Word
  /-- The program counter (R25). -/
  pc : Word
  /-- The call stack's slots (R29). -/
  stack : Vector Word 16
  /-- The stack pointer, 0 to 16 (R29). -/
  sp : Fin 17
  /-- The delay timer DT (R31). -/
  dt : Byte
  /-- The sound timer ST (R32). -/
  st : Byte
  /-- The framebuffer (R33). -/
  fb : FrameBuffer
  /-- The keypad, true for down (R34). -/
  key : Vector Bool 16
  /-- The needs_redraw flag (R35). -/
  redraw : Bool
  /-- The 4096 bytes of memory (R36). -/
  mem : Memory
  /-- Whether a fatal fault has halted the core (R37). -/
  halted : Bool
  /-- The fatal fault record, if any (R37). -/
  fault : Option FaultRecord
  /-- Whether an unknown opcode was executed (R38). -/
  unkSeen : Bool
  /-- The latest unknown opcode (R38). -/
  unkWord : Word
  /-- The address of the latest unknown opcode (R38). -/
  unkPc : Word
  /-- Output sound_edge of the latest step (R41, R122; assumption log 4). -/
  soundEdge : Bool
  /-- Output unknown_out of the latest step, the word and its address (R41, R122; assumption log 4). -/
  unknownOut : Option (Word × Word)
  /-- Output fault_out of the latest step (R41, R122; assumption log 4). -/
  faultOut : Option FaultRecord
  /-- The result of the latest load, none before the first (R41, R77; assumption log 5). -/
  loadResult : Option LoadResult
  /-- How many random bytes CXNN has consumed: the model's own field (R11; assumption log 1). -/
  draws : Nat
  deriving DecidableEq, Repr

/-- The machine right after creation (R42, 70_reset_and_hazards.md R280, R281). Memory lists nothing: an unlisted address
reads as the font table or 0 (R36). The outputs, `loadResult` and `draws` have no reset value in the spec (DESIGN CHOICE,
assumption logs 1, 4 and 5). -/
def State.reset : State where
  v := Vector.replicate 16 0
  i := 0
  pc := BitVec.ofNat 16 Config.progBase
  stack := Vector.replicate 16 0
  sp := 0
  dt := 0
  st := 0
  fb := Vector.replicate 32 0
  key := Vector.replicate 16 false
  redraw := false
  mem := []
  halted := false
  fault := none
  unkSeen := false
  unkWord := 0
  unkPc := 0
  soundEdge := false
  unknownOut := none
  faultOut := none
  loadResult := none
  draws := 0

end Sys2Proof.Machine
end

