-- ==== Sys2Proof/Machine/Memory.lean ====
section
/-! DEFINITION. The memory of the core (20_memory.md R60 to R70): what an unlisted address reads as, reading and writing one
byte, blocks of bytes, and the canonical form. -/

namespace Sys2Proof.Machine

/-- The parameter FONT (R10): the 16 glyphs of R36, 5 rows each, bit 7 the leftmost pixel (assumption log 6). -/
def fontTable : List Byte :=
  [0xF0, 0x90, 0x90, 0x90, 0xF0] ++ [0x20, 0x60, 0x20, 0x20, 0x70] ++
  [0xF0, 0x10, 0xF0, 0x80, 0xF0] ++ [0xF0, 0x10, 0xF0, 0x10, 0xF0] ++
  [0x90, 0x90, 0xF0, 0x10, 0x10] ++ [0xF0, 0x80, 0xF0, 0x10, 0xF0] ++
  [0xF0, 0x80, 0xF0, 0x90, 0xF0] ++ [0xF0, 0x10, 0x20, 0x40, 0x40] ++
  [0xF0, 0x90, 0xF0, 0x90, 0xF0] ++ [0xF0, 0x90, 0xF0, 0x10, 0xF0] ++
  [0xF0, 0x90, 0xF0, 0x90, 0x90] ++ [0xE0, 0x90, 0xE0, 0x90, 0xE0] ++
  [0xF0, 0x80, 0x80, 0x80, 0xF0] ++ [0xE0, 0x90, 0x90, 0x90, 0xE0] ++
  [0xF0, 0x80, 0xF0, 0x80, 0xF0] ++ [0xF0, 0x80, 0xF0, 0x80, 0x80]

/-- What an unlisted address reads as: its byte at creation, the font from FONT_BASE on and 0 elsewhere (R36, R42). -/
def Memory.background (a : Nat) : Byte :=
  if a < Config.fontBase then 0 else fontTable.getD (a - Config.fontBase) 0

/-- The byte at an address (R64). -/
def Memory.read : Memory → Nat → Byte
  | [], a => Memory.background a
  | (b, w) :: rest, a => if a = b then w else Memory.read rest a

/-- Store one byte (R65), keeping the canonical form: storing the byte an unlisted address reads as unlists it. -/
def Memory.write : Memory → Nat → Byte → Memory
  | [], a, x => if x = Memory.background a then [] else [(a, x)]
  | (b, w) :: rest, a, x =>
    if a < b then (if x = Memory.background a then (b, w) :: rest else (a, x) :: (b, w) :: rest)
    else if a = b then (if x = Memory.background a then rest else (a, x) :: rest)
    else (b, w) :: Memory.write rest a x

/-- The bytes at `base`, `base + 1`, …, `len` of them. -/
def Memory.readBlock (m : Memory) (base len : Nat) : List Byte :=
  (List.range len).map fun k => m.read (base + k)

/-- Store bytes at `base`, `base + 1`, … in order. -/
def Memory.writeBlock : Memory → Nat → List Byte → Memory
  | m, _, [] => m
  | m, base, x :: xs => Memory.writeBlock (m.write base x) (base + 1) xs

/-- The canonical form: addresses strictly rising and in the address space of R60, no entry equal to what its address reads
as unlisted. Equal memories are equal lists. -/
abbrev Memory.wf (m : Memory) : Prop :=
  m.Pairwise (fun c d => c.1 < d.1) ∧ ∀ c ∈ m, c.1 < Config.memSize ∧ c.2 ≠ Memory.background c.1

/-- Whether `len` bytes from `base` are all addresses of R60; a block of no bytes has no address to check (R66, R202). -/
def blockFits (base len : Nat) : Bool := len == 0 || decide (base + len ≤ Config.memSize)

end Sys2Proof.Machine
end

