-- ==== Sys2Proof/Machine/Operands.lean ====
section
/-! DEFINITION. Reading and writing the places an instruction names: general registers and the flag (R15, R16, R21, R23), the
addresses through I and nnn (43_index_memory.md R186), framebuffer cells (44_display.md R200). -/

namespace Sys2Proof.Machine

/-- VF's index, FLAG_REG (R10, R23). -/
def flagReg : Nibble := 0xF

/-- `zext_16(v)` (R13). -/
def zext16 {n : Nat} (a : BitVec n) : Word := a.setWidth 16

/-- `V[x]` (R14). -/
def State.reg (s : State) (x : Nibble) : Byte := s.v[x.val]

/-- `V[x] <- b` (R14). -/
def State.setReg (s : State) (x : Nibble) (b : Byte) : State := { s with v := s.v.set x.val b }

/-- `VF <- flag`, 1 or 0 (R23). The instructions that also write a result call it after `setReg`, so that the flag wins
when the result register is VF (R16, D3). -/
def State.setFlag (s : State) (f : Bool) : State := s.setReg flagReg (flagByte f)

/-- `I <- w` (R28). -/
def State.setI (s : State) (w : Word) : State := { s with i := w }

/-- Address `i0` of the instructions that access memory through I, an unbounded natural (R64, R186). -/
def State.base (s : State) : Nat := s.i.toNat

/-- Replace memory. -/
def State.setMem (s : State) (m : Memory) : State := { s with mem := m }

/-- `DT <- b` (R31). -/
def State.setDt (s : State) (b : Byte) : State := { s with dt := b }

/-- `ST <- b` (R32). -/
def State.setSt (s : State) (b : Byte) : State := { s with st := b }

/-- V0 to Vx, in order: what FX55 stores (R184). -/
def State.regsUpTo (s : State) (x : Nibble) : List Byte := s.v.toList.take (x.val + 1)

/-- V0 to Vx loaded from consecutive cells (R185); the loads cannot change memory or I, so all read the memory before the
instruction (assumption log 16). -/
def State.loadRegs (s : State) (x : Nibble) : State :=
  { s with v := Vector.ofFn fun k : Fin 16 => if k.val ≤ x.val then s.mem.read (s.base + k.val) else s.v[k.val] }

/-- The next random byte, and the state that has consumed it (R11, R161; assumption log 1). -/
def State.nextRandom (s : State) : Byte × State := (Config.randomByte s.draws, { s with draws := s.draws + 1 })

/-! ## Framebuffer cells -/

/-- `fb[k]` (R33). -/
def FrameBuffer.pixel (fb : FrameBuffer) (k : CellIdx) : Bool := fb[k.val / 64].getLsbD (k.val % 64)

/-- `fb[k] <- fb[k] ^ 1` (R202). -/
def FrameBuffer.toggle (fb : FrameBuffer) (k : CellIdx) : FrameBuffer :=
  fb.set (k.val / 64) (fb[k.val / 64] ^^^ BitVec.twoPow 64 (k.val % 64))

/-- Every cell 0 (R201). -/
def FrameBuffer.clear : FrameBuffer := Vector.replicate 32 0

/-- The cell of the pixel at coordinates (px, py): the linear index modulo 2048, not each axis (R200, C2). -/
def cellAt (px py : Nat) : CellIdx := Fin.ofNat 2048 (px + py * Config.fbWidth)

/-- Replace the framebuffer and set `redraw`, as both display instructions do (R35, R205, D17). -/
def State.display (s : State) (fb : FrameBuffer) : State := { s with fb := fb, redraw := true }

/-! ## Keys -/

/-- `key[k]` (R34). -/
def State.keyDown (s : State) (k : Nibble) : Bool := s.key[k.val]

/-- The highest down key below `n` (R222: KEY_TIE_BREAK = highest, D13). -/
def highestDown (key : Vector Bool 16) : (n : Nat) → n ≤ 16 → Option Nibble
  | 0, _ => none
  | n + 1, h => if key[n] then some ⟨n, h⟩ else highestDown key n (Nat.le_of_succ_le h)

end Sys2Proof.Machine
end

