-- ==== Sys2Proof/Machine/Ops.lean ====
section
/-! DEFINITION. The named operations the meanings and the step are made of: the next pc, the call stack, taking a fatal
fault, block accesses, sprites, the unknown opcode, the fetch and the timer tick. -/

namespace Sys2Proof.Machine

/-! ## The next pc (40_cycle.md R115 to R117) -/

/-- `pc <- target`. -/
def State.jump (s : State) (target : Word) : State := { s with pc := target }

/-- `pc <- pc + 2`, the default (R116). -/
def State.advance (s : State) : State := s.jump (s.pc + 2)

/-- `pc <- pc + 4` when the skip is taken, else `pc + 2` (R117, R139). -/
def State.skipIf (s : State) (c : Bool) : State := s.jump (if c then s.pc + 4 else s.pc + 2)

/-! ## The call stack (10_state.md R29, R30) -/

/-- A push below the capacity: the slot at sp, then sp + 1. -/
def State.push (s : State) (w : Word) (h : s.sp.val < 16) : State :=
  { s with stack := s.stack.set s.sp.val w, sp := ⟨s.sp.val + 1, Nat.succ_lt_succ h⟩ }

/-- The occupied slot a pop reads, the one below sp. -/
def State.top (s : State) : Word := s.stack[s.sp.val - 1]'(by have := s.sp.isLt; omega)

/-- A pop: sp - 1; the slot keeps its value (R30, D22). -/
def State.pop (s : State) : State :=
  { s with sp := ⟨s.sp.val - 1, Nat.lt_of_le_of_lt (Nat.sub_le _ _) s.sp.isLt⟩ }

/-! ## Taking a fatal fault (60_exceptions.md R241, R249, R251)

There is no vector, no handler and no saved-state register (R252), and no return (R253): a fatal fault halts the core. -/

/-- The codes of R242 to R247 (D31; assumption log 15). -/
def FaultRecord.code (r : FaultRecord) : Nat :=
  match r.kind with
  | .fetchOutOfBounds => 1
  | .memOutOfBounds => 2
  | .stackOverflow => 3
  | .stackUnderflow => 4
  | .keyOutOfRange => 6

/-- `raise Fatal(kind, info)`: `halted`, `fault` and the step's `fault_out`, and nothing else; pc stays (R120, R241, R251).
The record holds the pc of the step and the fetched word, none for a fetch fault (R249). -/
def raiseFatal (kind : Fault) (info : Nat) (word : Option Word) (s : State) : State :=
  { s with
    halted := true
    fault := some { kind := kind, info := info, pc := s.pc, word := word }
    faultOut := some { kind := kind, info := info, pc := s.pc, word := word } }

/-- A fatal fault raised by an instruction: the fetched word is the instruction's (R249; assumption log 8). -/
def raiseFatalAt (ins : Instr) (kind : Fault) (info : Nat) (s : State) : Host.Outcome State Fault Refusal :=
  .next (raiseFatal kind info (some (encode ins)) s)

/-! ## Block accesses through I (20_memory.md R66, 60_exceptions.md R243) -/

/-- An instruction that accesses `len` bytes from I: the whole range is checked before any write, and the fault records the
lowest address of the range at or above 4096, max(I, 4096) (R66, R243; assumption log 14). -/
def onBlock (ins : Instr) (len : Nat) (effect : State → State) (s : State) : Host.Outcome State Fault Refusal :=
  if blockFits s.base len then .next (effect s)
  else raiseFatalAt ins .memOutOfBounds (max s.base Config.memSize) s

/-- I after a block transfer of V0 to Vx: i0 + x + 1 modulo 2^16 (R184, R185, R187). -/
def State.bumpI (s : State) (x : Nibble) : State := s.setI (BitVec.ofNat 16 (s.base + x.val + 1))

/-- The decimal digits of a byte, hundreds first (R183; assumption log 13). -/
def bcdDigits (b : Byte) : List Byte :=
  [BitVec.ofNat 8 (b.toNat / 100), BitVec.ofNat 8 (b.toNat / 10 % 10), BitVec.ofNat 8 (b.toNat % 10)]

/-! ## Sprites (44_display.md R202) -/

/-- The cells of one sprite row's set bits, bit 7 leftmost (R202). -/
def rowCells (vx vy : Byte) (r : Nat) (row : Byte) : List CellIdx :=
  ((List.range 8).filter fun c => row.getLsbD (7 - c)).map fun c => cellAt (vx.toNat + c) (vy.toNat + r)

/-- The cells of a sprite's set bits, row by row, the first row numbered `r`. -/
def spriteCells (vx vy : Byte) : Nat → List Byte → List CellIdx
  | _, [] => []
  | r, row :: rows => rowCells vx vy r row ++ spriteCells vx vy (r + 1) rows

/-- One pixel of a sprite: the collision test, then the XOR (R202). -/
def drawPixel (p : FrameBuffer × Bool) (k : CellIdx) : FrameBuffer × Bool := (p.1.toggle k, p.2 || p.1.pixel k)

/-- Draw the cells in order: the new framebuffer and whether some set cell was cleared (R202). -/
def drawCells (fb : FrameBuffer) (cells : List CellIdx) : FrameBuffer × Bool := cells.foldl drawPixel (fb, false)

/-- The cells DXYN targets in a state: `n` rows read from I, at the coordinates Vx and Vy (R202). -/
def State.sprite (s : State) (x y : Nibble) (n : Nat) : List CellIdx :=
  spriteCells (s.reg x) (s.reg y) 0 (s.mem.readBlock s.base n)

/-! ## The rest of a step (40_cycle.md R111) -/

/-- The outputs of a step before it does anything: false, none, none (R111, R122). -/
def State.clearOutputs (s : State) : State := { s with soundEdge := false, unknownOut := none, faultOut := none }

/-- The fetched word, none when pc + 1 is no address; any pc, odd or even (R112, R113, R67). -/
def State.fetch (s : State) : Option Word :=
  if s.pc.toNat + 1 ≥ Config.memSize then none
  else some (wordOfBytes (s.mem.read s.pc.toNat) (s.mem.read (s.pc.toNat + 1)))

/-- `execute_unknown(w)`: the sticky record, the step's report, and pc + UNKNOWN_PC_ADVANCE (R118, D6, D30). -/
def State.executeUnknown (s : State) (w : Word) : State :=
  { s with
    unkSeen := true
    unkWord := w
    unkPc := s.pc
    unknownOut := some (w, s.pc)
    pc := s.pc + Config.unknownPcAdvance }

/-- A timer after one tick, clamped at 0 (R257, R258). -/
def tickDown (t : Byte) : Byte := if t = 0#8 then 0#8 else t - 1#8

/-- The timer tick: DT, then the edge (ST = 1 before the decrement) and ST (R257, R258, R263). -/
def State.tick (s : State) : State :=
  { s with dt := tickDown s.dt, soundEdge := s.st == 1#8, st := tickDown s.st }

/-- What follows execute: the tick, unless the instruction raised a fatal fault (R119, R120). -/
def finishStep : Host.Outcome State Fault Refusal → Host.Outcome State Fault Refusal
  | .next t => .next (if t.halted then t else t.tick)
  | .fault r => .fault r
  | .refused r => .refused r

end Sys2Proof.Machine
end

