-- ==== Sys2Proof/Machine/Alu.lean ====
section
/-! DEFINITION. Register loads, arithmetic and the random byte (42_alu.md R150 to R161). Operands are read at the start
(R15); the flag is written after the result, so it wins when x = 0xF (R16). -/

namespace Sys2Proof.Machine

/-- The shape of an instruction that writes one register: `V[x] <- result; pc <- pc + 2`. -/
def regResult (x : Nibble) (result : Byte) (s : State) : Host.Outcome State Fault Refusal :=
  .next (s.setReg x result).advance

/-- The shape of a flag-writing operation: `V[x] <- result`, then `VF <- flag`, then `pc <- pc + 2` (R16, R163). -/
def flagResult (x : Nibble) (result : Byte) (flag : Bool) (s : State) : Host.Outcome State Fault Refusal :=
  .next ((s.setReg x result).setFlag flag).advance

/-- 6XNN LD Vx, nn (R150). -/
def execLdImm (x : Nibble) (nn : Byte) (s : State) : Host.Outcome State Fault Refusal := regResult x nn s

/-- 7XNN ADD Vx, nn (R151): modulo 256, no flag (D5). -/
def execAddImm (x : Nibble) (nn : Byte) (s : State) : Host.Outcome State Fault Refusal :=
  regResult x (s.reg x + nn) s

/-- 8XY0 LD Vx, Vy (R152). -/
def execLdReg (x y : Nibble) (s : State) : Host.Outcome State Fault Refusal := regResult x (s.reg y) s

/-- 8XY1 OR Vx, Vy (R153). -/
def execOr (x y : Nibble) (s : State) : Host.Outcome State Fault Refusal := regResult x (s.reg x ||| s.reg y) s

/-- 8XY2 AND Vx, Vy (R154). -/
def execAnd (x y : Nibble) (s : State) : Host.Outcome State Fault Refusal := regResult x (s.reg x &&& s.reg y) s

/-- 8XY3 XOR Vx, Vy (R155). -/
def execXor (x y : Nibble) (s : State) : Host.Outcome State Fault Refusal := regResult x (s.reg x ^^^ s.reg y) s

/-- 8XY4 ADD Vx, Vy with carry (R156). -/
def execAddReg (x y : Nibble) (s : State) : Host.Outcome State Fault Refusal :=
  flagResult x (s.reg x + s.reg y) (carryOf (s.reg x) (s.reg y)) s

/-- 8XY5 SUB Vx, Vy, VF = no borrow (R157). -/
def execSub (x y : Nibble) (s : State) : Host.Outcome State Fault Refusal :=
  flagResult x (s.reg x - s.reg y) (noBorrowOf (s.reg x) (s.reg y)) s

/-- 8XY6 SHR Vx, VF = the bit shifted out; Vy is not read (R158, C7). -/
def execShr (x _y : Nibble) (s : State) : Host.Outcome State Fault Refusal :=
  flagResult x (s.reg x >>> 1) (lowBitOf (s.reg x)) s

/-- 8XY7 SUBN Vx, Vy, VF = no borrow of Vy - Vx (R159). -/
def execSubn (x y : Nibble) (s : State) : Host.Outcome State Fault Refusal :=
  flagResult x (s.reg y - s.reg x) (noBorrowOf (s.reg y) (s.reg x)) s

/-- 8XYE SHL Vx, VF = the bit shifted out; Vy is not read (R160, C7). -/
def execShl (x _y : Nibble) (s : State) : Host.Outcome State Fault Refusal :=
  flagResult x (s.reg x <<< 1) (highBitOf (s.reg x)) s

/-- `rnd & nn`, the masking contract of R161. -/
def maskRandom (rnd nn : Byte) : Byte := rnd &&& nn

/-- CXNN RND Vx, nn (R161): the next random byte is a free value (assumption log 1). -/
def execRnd (x : Nibble) (nn : Byte) (s : State) : Host.Outcome State Fault Refusal :=
  regResult x (maskRandom s.nextRandom.1 nn) s.nextRandom.2

end Sys2Proof.Machine
end

