-- ==== Sys2Proof/Machine/Control.lean ====
section
/-! DEFINITION. Return, jumps, call and the register skips (41_control.md R130 to R137). -/

namespace Sys2Proof.Machine

/-- 00EE RET (R130). With sp = 0 the fatal StackUnderflow, info = sp (R245; assumption log 3). -/
def execRet (s : State) : Host.Outcome State Fault Refusal :=
  if s.sp.val = 0 then raiseFatalAt .ret .stackUnderflow s.sp.val s else .next (s.pop.jump s.top)

/-- 1NNN JP nnn (R131). -/
def execJp (nnn : Addr12) (s : State) : Host.Outcome State Fault Refusal := .next (s.jump (zext16 nnn))

/-- 2NNN CALL nnn (R132): the return address pc + 2 is pushed. With sp = 16 the fatal StackOverflow, info = sp (R244;
assumption log 3). -/
def execCall (nnn : Addr12) (s : State) : Host.Outcome State Fault Refusal :=
  if h : s.sp.val < 16 then .next ((s.push (s.pc + 2) h).jump (zext16 nnn))
  else raiseFatalAt (.call nnn) .stackOverflow s.sp.val s

/-- 3XNN SE Vx, nn (R133). -/
def execSeImm (x : Nibble) (nn : Byte) (s : State) : Host.Outcome State Fault Refusal :=
  .next (s.skipIf (s.reg x == nn))

/-- 4XNN SNE Vx, nn (R134). -/
def execSneImm (x : Nibble) (nn : Byte) (s : State) : Host.Outcome State Fault Refusal :=
  .next (s.skipIf (s.reg x != nn))

/-- 5XY0 SE Vx, Vy (R135). -/
def execSeReg (x y : Nibble) (s : State) : Host.Outcome State Fault Refusal :=
  .next (s.skipIf (s.reg x == s.reg y))

/-- 9XY0 SNE Vx, Vy (R136). -/
def execSneReg (x y : Nibble) (s : State) : Host.Outcome State Fault Refusal :=
  .next (s.skipIf (s.reg x != s.reg y))

/-- BNNN JP V0, nnn (R137): the 16-bit sum, not reduced to 12 bits. -/
def execJpV0 (nnn : Addr12) (s : State) : Host.Outcome State Fault Refusal :=
  .next (s.jump (zext16 nnn + zext16 (s.reg 0)))

end Sys2Proof.Machine
end

