-- ==== Sys2Proof/Machine/Display.lean ====
section
/-! DEFINITION. Clearing the framebuffer and drawing sprites (44_display.md R200 to R205). -/

namespace Sys2Proof.Machine

/-- 00E0 CLS (R201): every cell 0, and redraw even when nothing changed (D17). -/
def execCls (s : State) : Host.Outcome State Fault Refusal := .next (s.display FrameBuffer.clear).advance

/-- DXYN DRW Vx, Vy, n (R202): the sprite is XORed, VF = collision written after every pixel, redraw set; n = 0 draws
nothing and cannot fault (D16). -/
def execDrw (x y : Nibble) (n : Nat) (s : State) : Host.Outcome State Fault Refusal :=
  onBlock (.drw x y n) n
    (fun s => ((s.display (drawCells s.fb (s.sprite x y n)).1).setFlag (drawCells s.fb (s.sprite x y n)).2).advance) s

end Sys2Proof.Machine
end

