-- ==== Sys2Proof/Machine/Index.lean ====
section
/-! DEFINITION. The index register and the transfers through it (43_index_memory.md R180 to R185). -/

namespace Sys2Proof.Machine

/-- ANNN LD I, nnn (R180). -/
def execLdI (nnn : Addr12) (s : State) : Host.Outcome State Fault Refusal := .next (s.setI (zext16 nnn)).advance

/-- FX1E ADD I, Vx (R181): modulo 2^16, VF = the sum exceeds 0xFFF, with the old VF as operand when x = 0xF. -/
def execAddI (x : Nibble) (s : State) : Host.Outcome State Fault Refusal :=
  .next ((s.setI (s.i + zext16 (s.reg x))).setFlag (indexOverflowOf s.i (s.reg x))).advance

/-- FX29 LD F, Vx (R182): the whole of Vx, not its low nibble. -/
def execLdF (x : Nibble) (s : State) : Host.Outcome State Fault Refusal :=
  .next (s.setI (BitVec.ofNat 16 (Config.fontBase + (s.reg x).toNat * Config.glyphBytes))).advance

/-- FX33 LD B, Vx (R183). -/
def execLdB (x : Nibble) (s : State) : Host.Outcome State Fault Refusal :=
  onBlock (.ldB x) 3 (fun s => (s.setMem (s.mem.writeBlock s.base (bcdDigits (s.reg x)))).advance) s

/-- FX55 LD [I], Vx (R184). -/
def execLdMemStore (x : Nibble) (s : State) : Host.Outcome State Fault Refusal :=
  onBlock (.ldMemStore x) (x.val + 1)
    (fun s => ((s.setMem (s.mem.writeBlock s.base (s.regsUpTo x))).bumpI x).advance) s

/-- FX65 LD Vx, [I] (R185). -/
def execLdMemLoad (x : Nibble) (s : State) : Host.Outcome State Fault Refusal :=
  onBlock (.ldMemLoad x) (x.val + 1) (fun s => ((s.loadRegs x).bumpI x).advance) s

end Sys2Proof.Machine
end

