-- ==== Sys2Proof/Machine/KeysTimers.lean ====
section
/-! DEFINITION. The keypad and timer instructions (45_keys_timers.md R220 to R225). The tick of the same step follows in
`State.tick` (R226). -/

namespace Sys2Proof.Machine

/-- The shape of the key skips: vx >= 16 is the fatal KeyOutOfRange with info = vx, else the key Vx decides (R220, R221,
R247, D12). -/
def keySkip (ins : Instr) (x : Nibble) (taken : Bool → Bool) (s : State) : Host.Outcome State Fault Refusal :=
  if h : (s.reg x).toNat < 16 then .next (s.skipIf (taken (s.keyDown ⟨(s.reg x).toNat, h⟩)))
  else raiseFatalAt ins .keyOutOfRange (s.reg x).toNat s

/-- EX9E SKP Vx (R220). -/
def execSkp (x : Nibble) (s : State) : Host.Outcome State Fault Refusal := keySkip (.skp x) x (fun d => d) s

/-- EXA1 SKNP Vx (R221). -/
def execSknp (x : Nibble) (s : State) : Host.Outcome State Fault Refusal := keySkip (.sknp x) x (fun d => !d) s

/-- FX0A LD Vx, K (R222): with no key down nothing changes and pc stays; else the highest down key (D13). -/
def execLdK (x : Nibble) (s : State) : Host.Outcome State Fault Refusal :=
  match highestDown s.key 16 (Nat.le_refl 16) with
  | none => .next s
  | some k => .next (s.setReg x (BitVec.ofNat 8 k.val)).advance

/-- FX07 LD Vx, DT (R223): DT before this step's tick. -/
def execLdVxDt (x : Nibble) (s : State) : Host.Outcome State Fault Refusal := .next (s.setReg x s.dt).advance

/-- FX15 LD DT, Vx (R224). -/
def execLdDtVx (x : Nibble) (s : State) : Host.Outcome State Fault Refusal := .next (s.setDt (s.reg x)).advance

/-- FX18 LD ST, Vx (R225). -/
def execLdStVx (x : Nibble) (s : State) : Host.Outcome State Fault Refusal := .next (s.setSt (s.reg x)).advance

end Sys2Proof.Machine
end

