-- ==== Sys2Proof/Machine/HostOps.lean ====
section
/-! DEFINITION. The host's moves between steps (10_state.md R41, 60_exceptions.md R260 to R268): set a key, load a program,
acknowledge a redraw, read a pixel. The other outputs are fields of State. There is no other host write (R268; assumption
log 9). -/

namespace Sys2Proof.Machine

/-- `key_wr(k, down)` (R260). -/
def State.setKey (s : State) (k : Nibble) (down : Bool) : State := { s with key := s.key.set k.val down }

/-- `redraw_ack` (R262). -/
def State.redrawAck (s : State) : State := { s with redraw := false }

/-- `fb_rd(k)` (R261). -/
def State.readPixel (s : State) (k : CellIdx) : Bool := s.fb.pixel k

/-- `load(bytes)` (20_memory.md R77, R78): all of the program at 0x200, or none of it. It does not clear `halted`. -/
def State.load (s : State) (bytes : List Byte) : State :=
  if bytes.length > Config.progMax then { s with loadResult := some (.programTooLarge bytes.length) }
  else { s with mem := s.mem.writeBlock Config.progBase bytes, loadResult := some .ok }

/-- The codes of the two recoverable conditions, UnknownOpcode and ProgramTooLarge (R246, R248). -/
def unknownOpcodeCode : Nat := 5

/-- See `unknownOpcodeCode`. -/
def programTooLargeCode : Nat := 7

end Sys2Proof.Machine
end

