-- ==== Sys2Proof/Machine/Step.lean ====
section
/-! DEFINITION. The step (40_cycle.md R110, R111), and placing an instruction where the next step fetches it. -/

namespace Sys2Proof.Machine

/-- One step: the outputs are cleared, a halted core does nothing more (R121), else fetch (R112, R113), decode (R114),
execute (R115, R118) and tick (R119, R120), in the order of R111. It answers a next state always. -/
def step (s : State) : Host.Outcome State Fault Refusal :=
  if s.halted then .next s.clearOutputs
  else match s.fetch with
    | none => .next (raiseFatal .fetchOutOfBounds s.pc.toNat none s.clearOutputs)
    | some w => match decode w with
      | .unknown _ => finishStep (.next (s.clearOutputs.executeUnknown w))
      | .instr i => finishStep (exec i s.clearOutputs)

/-- The state with a table row's word stored where the next step fetches, the high byte at pc (R80, R112), for a pc whose
fetch is in bounds; no cell holds the next instruction otherwise (assumption log 10). -/
def State.withFetchWord (s : State) (nbits w : Nat) : State :=
  if s.pc.toNat + 1 ≥ Config.memSize then s
  else s.setMem (s.mem.writeBlock s.pc.toNat [highByte (tableWord nbits w), lowByte (tableWord nbits w)])

end Sys2Proof.Machine
end

