-- ==== Sys2Proof/Machine/RunEnd.lean ====
section
/-! DEFINITION. The end of a run (40_cycle.md R125): there is no halt instruction, so where a run has ended is read off the
state, as the stalled state of R124 is. No rule of the core reads it, and `step` does not stop there. -/

namespace Sys2Proof.Machine

/-- The three ends of a program of R125. -/
inductive RunEnd where
  /-- A fatal fault has halted the core. -/
  | fatal
  /-- The next instruction jumps to its own address. -/
  | selfJump
  /-- The next instruction is an FX0A and no key is down (R124); it lasts until the host sets a key. -/
  | stalled
  deriving DecidableEq, Repr

/-- Whether the run has ended in this state, and how (R125): a run ends at its first state where this is not none. The jumps
to their own address are 1NNN and BNNN; a 2NNN or 00EE at its own target changes the stack too (assumption log 18). -/
def State.runEnd (s : State) : Option RunEnd :=
  if s.halted then some .fatal
  else match s.fetch.map decode with
    | some (.instr (.jp nnn)) => if zext16 nnn = s.pc then some .selfJump else none
    | some (.instr (.jpV0 nnn)) => if zext16 nnn + zext16 (s.reg 0) = s.pc then some .selfJump else none
    | some (.instr (.ldK _)) => if ∀ k : Nibble, s.keyDown k = false then some .stalled else none
    | _ => none

end Sys2Proof.Machine
end

