-- ==== Sys2Proof/Safety.lean ====
section
/-! DEFINITION. The terms the statements use: a safe state, the invariant of 10_state.md R43, what an instruction leaves
unchanged, and the cells a sprite targets. -/

namespace Sys2Proof.Machine

/-- No fatal fault has happened and no unknown opcode was executed: the premises D6 and D11 ask a claim to take. -/
def State.Safe (s : State) : Prop := s.halted = false ∧ s.unkSeen = false

/-- The invariant (R43 and R37, R40, R249): memory is canonical, pc and the stack slots stay in their reachable ranges,
the core is halted exactly when a fault is recorded, and the record holds the pc at which the core stands. The bounds of
`sp`, the timers and the cells are facts of their types. -/
def State.Inv (s : State) : Prop :=
  s.mem.wf ∧ s.pc.toNat ≤ 0x10FE ∧ (∀ k : Fin 16, s.stack[k.val].toNat ≤ 0x1000) ∧
  s.halted = s.fault.isSome ∧ ∀ r, s.fault = some r → r.pc = s.pc

/-! ## Frames -/

/-- The parts of the state beside the general registers and the pc. -/
inductive Part where
  | index | stack | delay | sound | display | keys | memory | status | outputs | draws
  deriving DecidableEq, Repr

/-- The second state has a part as the first has it. Memory is compared byte by byte, the framebuffer as a whole. -/
def Part.same : Part → State → State → Prop
  | .index, s, t => t.i = s.i
  | .stack, s, t => t.stack = s.stack ∧ t.sp = s.sp
  | .delay, s, t => t.dt = s.dt
  | .sound, s, t => t.st = s.st
  | .display, s, t => t.fb = s.fb ∧ t.redraw = s.redraw
  | .keys, s, t => t.key = s.key
  | .memory, s, t => ∀ a, t.mem.read a = s.mem.read a
  | .status, s, t => t.halted = s.halted ∧ t.fault = s.fault ∧ t.unkSeen = s.unkSeen ∧ t.unkWord = s.unkWord ∧
      t.unkPc = s.unkPc
  | .outputs, s, t => t.soundEdge = s.soundEdge ∧ t.unknownOut = s.unknownOut ∧ t.faultOut = s.faultOut ∧
      t.loadResult = s.loadResult
  | .draws, s, t => t.draws = s.draws

/-- Every general register outside `regs` and every part outside `parts` is unchanged. The pc is free. -/
def Frame (regs : List Nibble) (parts : List Part) (s t : State) : Prop :=
  (∀ k, k ∉ regs → t.reg k = s.reg k) ∧ ∀ p, p ∉ parts → p.same s t

/-- `t` is `s` after a fatal fault of this kind: halted, with the record in `fault` and `fault_out`, pc where it was, and
nothing else changed (R241, R249, R251). -/
def FatalAt (kind : Fault) (code info : Nat) (word : Option Word) (s t : State) : Prop :=
  t = { s with halted := true, fault := t.fault, faultOut := t.fault } ∧
  ∃ r, t.fault = some r ∧ r.kind = kind ∧ r.code = code ∧ r.info = info ∧ r.pc = s.pc ∧ r.word = word

/-- No fault was raised between `s` and `t` ("Faults: none" of an instruction rule). -/
def NoFault (s t : State) : Prop := t.halted = s.halted ∧ t.fault = s.fault ∧ t.faultOut = s.faultOut

/-- VF is as it was ("Flags: none" of an instruction rule). -/
def FlagKept (s t : State) : Prop := t.reg 0xF = s.reg 0xF

/-- A word, written as a number, decodes to an instruction. -/
def WordIs (w : Nat) (i : Instr) : Prop := decode (BitVec.ofNat 16 w) = .instr i

/-! ## Sprites -/

/-- Cell `k` is the target of a set bit of the sprite of DXYN in `s` (R200, R202): row r below n, column c below 8. -/
def Targets (s : State) (x y : Nibble) (n : Nat) (k : CellIdx) : Prop :=
  ∃ r, r < n ∧ ∃ c, c < 8 ∧ (s.mem.read (s.i.toNat + r)).getLsbD (7 - c) = true ∧
    k.val = ((s.reg x).toNat + c + ((s.reg y).toNat + r) * 64) % 2048

/-! ## The step -/

/-- `n` steps in a row, each answering a next state, take `s` to `t`. -/
def Steps : Nat → State → State → Prop
  | 0, s, t => t = s
  | n + 1, s, t => ∃ u, step s = .next u ∧ Steps n u t

/-- ST at the tick of a step from `s`: what FX18 has just written, else ST (R119, R225). -/
def soundBeforeTick (s : State) : Byte :=
  match s.fetch.map decode with
  | some (.instr (.ldStVx x)) => s.reg x
  | _ => s.st

/-- DT at the tick of a step from `s`: what FX15 has just written, else DT (R119, R224). -/
def delayBeforeTick (s : State) : Byte :=
  match s.fetch.map decode with
  | some (.instr (.ldDtVx x)) => s.reg x
  | _ => s.dt

/-- Two states that differ at most in stack slots at or above sp (R30). -/
def AgreeBelowSp (s t : State) : Prop :=
  t = { s with stack := t.stack } ∧ ∀ k : Fin 16, k.val < s.sp.val → t.stack[k.val] = s.stack[k.val]

end Sys2Proof.Machine
end

