-- ==== Sys2Proof/Certificates/Slice0/Obligations.lean ====
section
/-! DEFINITION. The statements about the model, from the numbered rules of spec/. Result statements say that an instruction
completes and what it leaves; frame statements say what it does not change; the rest are rules about the whole machine. -/

open Sys2Proof Sys2Proof.Machine

/-! ## Reset -/

/-- The reset value of every item of state that 70_reset_and_hazards.md R281 lists. That the font fills the first 80 bytes is
decision D18 (assumption log 6); its own bytes are the next statement. -/
def Obligations.ResetValuesAreTheCreationValues : Prop :=
  (∀ x, State.reset.reg x = 0) ∧ State.reset.i = 0 ∧ State.reset.pc = 0x200 ∧ State.reset.sp.val = 0 ∧
  (∀ k : Fin 16, State.reset.stack[k.val] = 0) ∧ State.reset.dt = 0 ∧ State.reset.st = 0 ∧
  (∀ k, State.reset.fb.pixel k = false) ∧ (∀ k, State.reset.keyDown k = false) ∧ State.reset.redraw = false ∧
  State.reset.halted = false ∧ State.reset.fault = none ∧ State.reset.unkSeen = false ∧ State.reset.unkWord = 0 ∧
  State.reset.unkPc = 0 ∧ ∀ a, 80 ≤ a → State.reset.mem.read a = 0

/-- R36's font table, glyph by glyph. The spec takes the bytes from general knowledge (D18): PRESUMED, assumption log 6. -/
def Obligations.ResetMemoryHoldsTheFontTable : Prop :=
  (List.range 16).map (fun g => (State.reset.mem.readBlock (5 * g) 5).map BitVec.toNat) =
    [[0xF0, 0x90, 0x90, 0x90, 0xF0], [0x20, 0x60, 0x20, 0x20, 0x70], [0xF0, 0x10, 0xF0, 0x80, 0xF0],
     [0xF0, 0x10, 0xF0, 0x10, 0xF0], [0x90, 0x90, 0xF0, 0x10, 0x10], [0xF0, 0x80, 0xF0, 0x10, 0xF0],
     [0xF0, 0x80, 0xF0, 0x90, 0xF0], [0xF0, 0x10, 0x20, 0x40, 0x40], [0xF0, 0x90, 0xF0, 0x90, 0xF0],
     [0xF0, 0x90, 0xF0, 0x10, 0xF0], [0xF0, 0x90, 0xF0, 0x90, 0x90], [0xE0, 0x90, 0xE0, 0x90, 0xE0],
     [0xF0, 0x80, 0x80, 0x80, 0xF0], [0xE0, 0x90, 0x90, 0x90, 0xE0], [0xF0, 0x80, 0xF0, 0x80, 0xF0],
     [0xF0, 0x80, 0xF0, 0x80, 0x80]]

/-- The invariant holds right after reset. -/
def Obligations.ResetMeetsTheInvariant : Prop := State.reset.Inv

/-- Every step keeps the invariant (10_state.md section 12, R43, which the spec marks as derived). -/
def Obligations.EveryStepKeepsTheInvariant : Prop := ∀ s t : State, s.Inv → step s = .next t → t.Inv

/-! ## Encoding -/

/-- Decoding an encoded well-formed instruction gives it back, every operand included. -/
def Obligations.DecodeOfEncodeIsTheInstruction : Prop := ∀ i : Instr, i.wf = true → decode (encode i) = .instr i

/-- A word that decodes to an instruction is that instruction's encoding, and the instruction is well formed. -/
def Obligations.EncodeOfDecodeIsTheWord : Prop :=
  ∀ (w : Word) (i : Instr), decode w = .instr i → encode i = w ∧ i.wf = true

/-- R87: group 0 holds exactly CLS and RET. -/
def Obligations.GroupZeroHoldsOnlyClsAndRet : Prop :=
  ∀ w : Word, w.toNat < 0x1000 →
    (w = 0x00E0 → decode w = .instr .cls) ∧ (w = 0x00EE → decode w = .instr .ret) ∧
    (w ≠ 0x00E0 → w ≠ 0x00EE → decode w = .unknown .group0)

/-- The six families of unknown words (30_encoding.md section 3), by nibbles; every other word decodes to an instruction.
The exactness of the patterns is the spec's decision D7. -/
def Obligations.UnknownWordsAreTheSixFamilies : Prop :=
  ∀ (g x y n : Fin 16) (w : Word), w.toNat = g.val * 4096 + x.val * 256 + y.val * 16 + n.val →
    ((∃ u, decode w = .unknown u) ↔
      (g.val = 0 ∧ w ≠ 0x00E0 ∧ w ≠ 0x00EE) ∨ (g.val = 5 ∧ n.val ≠ 0) ∨
      (g.val = 8 ∧ 8 ≤ n.val ∧ n.val ≠ 0xE) ∨ (g.val = 9 ∧ n.val ≠ 0) ∨
      (g.val = 0xE ∧ y.val * 16 + n.val ≠ 0x9E ∧ y.val * 16 + n.val ≠ 0xA1) ∨
      (g.val = 0xF ∧ y.val * 16 + n.val ∉ [0x07, 0x0A, 0x15, 0x18, 0x1E, 0x29, 0x33, 0x55, 0x65]))

/-- Words written out from the spec's encodings, one or more of each family, and words it leaves unknown. -/
def Obligations.WrittenOutWordsDecode : Prop :=
  decode 0x00E0 = .instr .cls ∧ decode 0x00EE = .instr .ret ∧ decode 0x2300 = .instr (.call 0x300) ∧
  decode 0x3310 = .instr (.seImm 3 0x10) ∧ decode 0x8014 = .instr (.addReg 0 1) ∧
  decode 0x8566 = .instr (.shr 5 6) ∧ decode 0xC30F = .instr (.rnd 3 0x0F) ∧ decode 0xD125 = .instr (.drw 1 2 5) ∧
  decode 0xE59E = .instr (.skp 5) ∧ decode 0xF20A = .instr (.ldK 2) ∧ decode 0xF265 = .instr (.ldMemLoad 2) ∧
  decode 0x01E0 = .unknown .group0 ∧ decode 0x5121 = .unknown .group5 ∧ decode 0x8008 = .unknown .group8

/-! ## The step -/

/-- R112: the fetch combines two consecutive bytes big-endian, at an odd pc too. -/
def Obligations.FetchCombinesTwoBytesBigEndian : Prop :=
  ∀ s : State, s.pc.toNat + 1 < 4096 →
    ∃ w, s.fetch = some w ∧ w.toNat = (s.mem.read s.pc.toNat).toNat * 256 + (s.mem.read (s.pc.toNat + 1)).toNat

/-- A fetch with pc or pc + 1 at 4096 or above is fatal; the last address an instruction can be fetched from is 0xFFE
(40_cycle.md R113). The record is that of 60_exceptions.md R242 and R249 (its code and form are decision D31), and the state
that of R241 and R251 (decisions D10, D11, assumption log 12), a next state by assumption log 2. -/
def Obligations.FetchPastTheEndHaltsTheCore : Prop :=
  ∀ s : State, s.halted = false →
    (s.pc.toNat ≤ 0xFFE → s.fetch.isSome = true) ∧
    (4096 ≤ s.pc.toNat ∨ 4096 ≤ s.pc.toNat + 1 →
      ∃ t, step s = .next t ∧ FatalAt .fetchOutOfBounds 1 s.pc.toNat none s.clearOutputs t)

/-- A step from a state that is not halted, whose word at pc decodes to `i`, is `exec i` on the state with its outputs
cleared, and then the tick unless a fatal fault was raised (40_cycle.md section 1). -/
def Obligations.StepRunsTheDecodedInstruction : Prop :=
  ∀ (s u : State) (w : Word) (i : Instr), s.halted = false → s.fetch = some w → decode w = .instr i →
    exec i s.clearOutputs = .next u → step s = .next (if u.halted then u else u.tick)

/-- An unknown opcode is recorded and reported, pc advances by 2, the tick runs, and nothing else changes (40_cycle.md
R118; the advance is the spec's decision D6). -/
def Obligations.UnknownOpcodeIsRecordedAndSkipped : Prop :=
  ∀ (s : State) (w : Word) (u : UnknownKind), s.halted = false → s.fetch = some w → decode w = .unknown u →
    ∃ t, step s = .next t ∧ t.unkSeen = true ∧ t.unkWord = w ∧ t.unkPc = s.pc ∧ t.unknownOut = some (w, s.pc) ∧
      t.pc = s.pc + 2 ∧ t.halted = false ∧ t.fault = s.fault ∧ t.faultOut = none ∧ t.loadResult = s.loadResult ∧
      t.dt.toNat = s.dt.toNat - 1 ∧ t.st.toNat = s.st.toNat - 1 ∧ (t.soundEdge = true ↔ s.st = 1) ∧
      Frame [] [.status, .outputs, .delay, .sound] s t

/-- Steps of a halted core change nothing but the outputs, which read as no output, however many are requested
(40_cycle.md R121, decision D11). -/
def Obligations.HaltedCoreStaysAsItIs : Prop :=
  ∀ (s t : State) (n : Nat), s.halted = true →
    (Steps (n + 1) s t ↔ t = { s with soundEdge := false, unknownOut := none, faultOut := none })

/-- No step answers the outcomes fault or refused. That a fatal fault is answered as a NEXT state, the halted one, is the
model's choice (assumption log 2, from 60_exceptions.md R241 and R251); the core itself halts there (R125, R252). -/
def Obligations.EveryStepAnswersANextState : Prop := ∀ s : State, ∃ t, step s = .next t

/-- The end of a run (40_cycle.md R125; assumption log 18): a run has ended in exactly the states whose step changes nothing
but the timers and the outputs, pc unchanged; and any number of steps on, it is still the same end, with nothing else
changed. The host can leave a stalled end by setting a key; a step cannot. -/
def Obligations.RunEndsWhereStepsOnlyTick : Prop :=
  (∀ s : State, s.runEnd.isSome = true ↔
    ∃ t, step s = .next t ∧ t.pc = s.pc ∧ t.loadResult = s.loadResult ∧ Frame [] [.delay, .sound, .outputs] s t) ∧
  ∀ (n : Nat) (s t : State) (e : RunEnd), s.runEnd = some e → Steps n s t →
    t.runEnd = some e ∧ t.pc = s.pc ∧ t.loadResult = s.loadResult ∧ Frame [] [.delay, .sound, .outputs] s t

/-- Fatal faults are precise: a step that halts the core changes nothing but halted, fault and the outputs
(60_exceptions.md R251, decision D10). -/
def Obligations.FatalStepIsPrecise : Prop :=
  ∀ s t : State, s.halted = false → step s = .next t → t.halted = true →
    t.fault.isSome = true ∧
    t = { s with halted := true, fault := t.fault, faultOut := t.fault, soundEdge := false, unknownOut := none }

/-- At the end of every step that does not halt, each timer is one less than it was at the tick, clamped at 0: a timer
just written by FX15 or FX18 included (60_exceptions.md R257, R258, 45_keys_timers.md R226; the rate is decision D2). -/
def Obligations.TimersTickOnceInEveryCompletedStep : Prop :=
  ∀ s t : State, step s = .next t → t.halted = false →
    t.dt.toNat = (delayBeforeTick s).toNat - 1 ∧ t.st.toNat = (soundBeforeTick s).toNat - 1

/-- sound_edge is true in exactly the steps whose tick finds ST = 1, in no halting or halted step (60_exceptions.md R263,
decision D15). -/
def Obligations.SoundEdgeIsTheOneToZeroTick : Prop :=
  ∀ s t : State, step s = .next t → (t.soundEdge = true ↔ t.halted = false ∧ soundBeforeTick s = 1)

/-! ## Control transfer -/

/-- R131: 1NNN; a target of 0xFFF fails at the next fetch. -/
def Obligations.JumpSetsPcToTheAddress : Prop :=
  ∀ (nnn : Addr12) (s : State), WordIs (0x1000 + nnn.toNat) (.jp nnn) ∧
    ∃ t, exec (.jp nnn) s = .next t ∧ t.pc.toNat = nnn.toNat ∧ NoFault s t ∧ FlagKept s t ∧
      (t.pc.toNat = 0xFFF → t.fetch = none)

/-- R137: BNNN, the sum not reduced to 12 bits; a target of 0xFFF or more fails at the next fetch. -/
def Obligations.ComputedJumpAddsV0 : Prop :=
  ∀ (nnn : Addr12) (s : State), WordIs (0xB000 + nnn.toNat) (.jpV0 nnn) ∧
    ∃ t, exec (.jpV0 nnn) s = .next t ∧ t.pc.toNat = nnn.toNat + (s.reg 0).toNat ∧ NoFault s t ∧
      FlagKept s t ∧ (0xFFF ≤ t.pc.toNat → t.fetch = none)

/-- 2NNN below the capacity (41_control.md section 1): the return address pc + 2 goes to the slot at sp, sp counts it,
every other slot keeps its value. -/
def Obligations.CallPushesTheReturnAddress : Prop :=
  ∀ (nnn : Addr12) (s : State), s.sp.val < 16 →
    ∃ t, exec (.call nnn) s = .next t ∧ t.pc.toNat = nnn.toNat ∧ t.sp.val = s.sp.val + 1 ∧
      (∀ k : Fin 16, t.stack[k.val] = if k.val = s.sp.val then s.pc + 2 else s.stack[k.val]) ∧
      Frame [] [.stack] s t

/-- 00EE with an occupied stack (41_control.md section 1, 10_state.md section 5): pc is the top slot, which keeps its
value. -/
def Obligations.ReturnPopsTheReturnAddress : Prop :=
  ∀ (s : State) (k : Fin 16), s.sp.val = k.val + 1 →
    ∃ t, exec .ret s = .next t ∧ t.pc = s.stack[k.val] ∧ t.sp.val = k.val ∧ t.stack = s.stack ∧
      Frame [] [.stack] s t

/-- StackOverflow and StackUnderflow (60_exceptions.md R244, R245). That info is sp is assumption log 3 (DEDUCED: the
pseudocode of R130 and R132 writes pc); the codes are decision D31, and that nothing else changes is R251, decision D10. -/
def Obligations.StackFaultsRecordTheStackPointer : Prop :=
  (∀ (nnn : Addr12) (s : State), s.sp.val = 16 → ∃ t, exec (.call nnn) s = .next t ∧
    FatalAt .stackOverflow 3 16 (some (BitVec.ofNat 16 (0x2000 + nnn.toNat))) s t) ∧
  ∀ s : State, s.sp.val = 0 → ∃ t, exec .ret s = .next t ∧ FatalAt .stackUnderflow 4 0 (some 0x00EE) s t

/-- The call round trip (41_control.md R138): a CALL at p, any run of the subroutine that leaves sp and the pushed slot as
the CALL left them, then RET: pc is p + 2 and sp is as before the CALL. -/
def Obligations.CallThenReturnComesBack : Prop :=
  ∀ (nnn : Addr12) (s t u : State) (k : Fin 16), s.sp.val = k.val → exec (.call nnn) s = .next t → u.sp = t.sp →
    u.stack[k.val] = t.stack[k.val] → ∃ v, exec .ret u = .next v ∧ v.pc = s.pc + 2 ∧ v.sp = s.sp

/-- R133, R134: the skips on an immediate. -/
def Obligations.ImmediateSkipsCompareTheRegister : Prop :=
  ∀ (x : Nibble) (nn : Byte) (s : State),
    WordIs (0x3000 + x.val * 256 + nn.toNat) (.seImm x nn) ∧ WordIs (0x4000 + x.val * 256 + nn.toNat) (.sneImm x nn) ∧
    (∃ t, exec (.seImm x nn) s = .next t ∧ t.pc = (if s.reg x = nn then s.pc + 4 else s.pc + 2) ∧
      NoFault s t ∧ FlagKept s t) ∧
    (∃ t, exec (.sneImm x nn) s = .next t ∧ t.pc = (if s.reg x = nn then s.pc + 2 else s.pc + 4) ∧
      NoFault s t ∧ FlagKept s t)

/-- The skips on two registers (41_control.md R135, R136; that their low nibble must be 0 is decision D7). -/
def Obligations.RegisterSkipsCompareTheRegisters : Prop :=
  ∀ (x y : Nibble) (s : State),
    WordIs (0x5000 + x.val * 256 + y.val * 16) (.seReg x y) ∧ WordIs (0x9000 + x.val * 256 + y.val * 16) (.sneReg x y) ∧
    (∃ t, exec (.seReg x y) s = .next t ∧ t.pc = (if s.reg x = s.reg y then s.pc + 4 else s.pc + 2) ∧
      NoFault s t ∧ FlagKept s t) ∧
    (∃ t, exec (.sneReg x y) s = .next t ∧ t.pc = (if s.reg x = s.reg y then s.pc + 2 else s.pc + 4) ∧
      NoFault s t ∧ FlagKept s t)

/-- Jumps and register skips change nothing but pc (00_scope.md R17, decision D5). -/
def Obligations.JumpsAndSkipsChangeOnlyPc : Prop :=
  ∀ (nnn : Addr12) (x y : Nibble) (nn : Byte) (s t : State) (i : Instr),
    i ∈ [.jp nnn, .jpV0 nnn, .seImm x nn, .sneImm x nn, .seReg x y, .sneReg x y] → exec i s = .next t → Frame [] [] s t

/-! ## Register loads and arithmetic -/

/-- The register loads (42_alu.md R150, R152). That the low nibble 0 of group 8 is the copy is R89, general knowledge by the
spec's own mark: PRESUMED, assumption log 13. -/
def Obligations.LoadsWriteTheRegister : Prop :=
  ∀ (x y : Nibble) (nn : Byte) (s : State),
    WordIs (0x6000 + x.val * 256 + nn.toNat) (.ldImm x nn) ∧ WordIs (0x8000 + x.val * 256 + y.val * 16) (.ldReg x y) ∧
    (∃ t, exec (.ldImm x nn) s = .next t ∧ t.reg x = nn ∧ t.pc = s.pc + 2 ∧ NoFault s t ∧
      (x ≠ 0xF → FlagKept s t)) ∧
    (∃ t, exec (.ldReg x y) s = .next t ∧ t.reg x = s.reg y ∧ t.pc = s.pc + 2 ∧ NoFault s t ∧
      (x ≠ 0xF → FlagKept s t))

/-- 7XNN, 8XY1, 8XY2, 8XY3 (42_alu.md sections 1 and 2): the result, and no flag (decision D5): VF changes only as the
destination, which the frame says. -/
def Obligations.FlaglessOperationsWriteTheResult : Prop :=
  ∀ (x y : Nibble) (nn : Byte) (s : State),
    (∃ t, exec (.addImm x nn) s = .next t ∧ (t.reg x).toNat = ((s.reg x).toNat + nn.toNat) % 256 ∧ t.pc = s.pc + 2 ∧
      Frame [x] [] s t) ∧
    (∃ t, exec (.or x y) s = .next t ∧ (∀ b, (t.reg x).getLsbD b = ((s.reg x).getLsbD b || (s.reg y).getLsbD b)) ∧
      t.pc = s.pc + 2 ∧ Frame [x] [] s t) ∧
    (∃ t, exec (.and x y) s = .next t ∧ (∀ b, (t.reg x).getLsbD b = ((s.reg x).getLsbD b && (s.reg y).getLsbD b)) ∧
      t.pc = s.pc + 2 ∧ Frame [x] [] s t) ∧
    (∃ t, exec (.xor x y) s = .next t ∧ (∀ b, (t.reg x).getLsbD b = ((s.reg x).getLsbD b ^^ (s.reg y).getLsbD b)) ∧
      t.pc = s.pc + 2 ∧ Frame [x] [] s t)

/-- 8XY4 (42_alu.md R156): the flag is computed from the source values. That it wins over the sum when x = 0xF is decision D3
(00_scope.md R16, 10_state.md R23; assumption log 12). -/
def Obligations.AddSetsCarryFromSourceValues : Prop :=
  ∀ (x y : Nibble) (s : State), WordIs (0x8004 + x.val * 256 + y.val * 16) (.addReg x y) ∧
    ∃ t, exec (.addReg x y) s = .next t ∧ (t.reg 0xF).toNat = (if (s.reg x).toNat + (s.reg y).toNat > 255 then 1 else 0) ∧
      (x ≠ 0xF → (t.reg x).toNat = ((s.reg x).toNat + (s.reg y).toNat) % 256) ∧ t.pc = s.pc + 2 ∧ NoFault s t

/-- The subtractions, VF = no borrow (42_alu.md R157, R159). That the flag wins over the result when x = 0xF is decision D3
(00_scope.md R16, 10_state.md R23; assumption log 12). -/
def Obligations.SubtractionsSetNoBorrow : Prop :=
  ∀ (x y : Nibble) (s : State),
    WordIs (0x8005 + x.val * 256 + y.val * 16) (.sub x y) ∧ WordIs (0x8007 + x.val * 256 + y.val * 16) (.subn x y) ∧
    (∃ t, exec (.sub x y) s = .next t ∧ (t.reg 0xF).toNat = (if (s.reg x).toNat ≥ (s.reg y).toNat then 1 else 0) ∧
      (x ≠ 0xF → (t.reg x).toNat = ((s.reg x).toNat + 256 - (s.reg y).toNat) % 256) ∧ t.pc = s.pc + 2 ∧
      NoFault s t) ∧
    (∃ t, exec (.subn x y) s = .next t ∧ (t.reg 0xF).toNat = (if (s.reg y).toNat ≥ (s.reg x).toNat then 1 else 0) ∧
      (x ≠ 0xF → (t.reg x).toNat = ((s.reg y).toNat + 256 - (s.reg x).toNat) % 256) ∧ t.pc = s.pc + 2 ∧
      NoFault s t)

/-- The shifts by one of Vx, VF = the bit shifted out, whatever y is (42_alu.md R158, R160). That the flag wins over the result
when x = 0xF is decision D3 (00_scope.md R16, 10_state.md R23; assumption log 12). -/
def Obligations.ShiftsMoveTheLostBitToTheFlag : Prop :=
  ∀ (x y : Nibble) (s : State),
    WordIs (0x8006 + x.val * 256 + y.val * 16) (.shr x y) ∧ WordIs (0x800E + x.val * 256 + y.val * 16) (.shl x y) ∧
    (∃ t, exec (.shr x y) s = .next t ∧ (t.reg 0xF).toNat = (s.reg x).toNat % 2 ∧
      (x ≠ 0xF → (t.reg x).toNat = (s.reg x).toNat / 2) ∧ t.pc = s.pc + 2 ∧ NoFault s t) ∧
    (∃ t, exec (.shl x y) s = .next t ∧ (t.reg 0xF).toNat = (s.reg x).toNat / 128 ∧
      (x ≠ 0xF → (t.reg x).toNat = (s.reg x).toNat * 2 % 256) ∧ t.pc = s.pc + 2 ∧ NoFault s t)

/-- CXNN (42_alu.md section 3): the next byte of the random source, masked, whatever that byte is (a draw, decision D19;
assumption log 1). One draw is consumed. -/
def Obligations.RandomByteIsMasked : Prop :=
  ∀ (x : Nibble) (nn : Byte) (s : State),
    ∃ t, exec (.rnd x nn) s = .next t ∧ t.reg x = Config.randomByte s.draws &&& nn ∧ t.draws = s.draws + 1 ∧
      t.pc = s.pc + 2 ∧ Frame [x] [.draws] s t

/-- The register loads and the flag-setting operations change nothing but their destination, VF where they set the flag,
and pc (00_scope.md R17, decision D5). -/
def Obligations.RegisterOperationsChangeOnlyTheirRegisters : Prop :=
  ∀ (x y : Nibble) (nn : Byte) (s t : State) (i : Instr), exec i s = .next t →
    (i ∈ [.ldImm x nn, .ldReg x y] → Frame [x] [] s t) ∧
    (i ∈ [.addReg x y, .sub x y, .shr x y, .subn x y, .shl x y] → Frame [x, 0xF] [] s t)

/-! ## The index register and memory -/

/-- R180: ANNN. -/
def Obligations.LoadIndexSetsI : Prop :=
  ∀ (nnn : Addr12) (s : State), WordIs (0xA000 + nnn.toNat) (.ldI nnn) ∧
    ∃ t, exec (.ldI nnn) s = .next t ∧ t.i.toNat = nnn.toNat ∧ t.pc = s.pc + 2 ∧ NoFault s t ∧ FlagKept s t

/-- FX1E (43_index_memory.md R181): I is added to modulo 2^16, not masked to 12 bits (decision D9), and VF says that the
sum exceeds 0xFFF; with x = 0xF the old VF is added. -/
def Obligations.AddIndexFlagsPastTheAddressSpace : Prop :=
  ∀ (x : Nibble) (s : State),
    ∃ t, exec (.addI x) s = .next t ∧ t.i.toNat = (s.i.toNat + (s.reg x).toNat) % 65536 ∧
      (t.reg 0xF).toNat = (if s.i.toNat + (s.reg x).toNat > 0xFFF then 1 else 0) ∧ t.pc = s.pc + 2 ∧
      Frame [0xF] [.index] s t

/-- FX29 (43_index_memory.md R182): five bytes a glyph from FONT_BASE = 0 (decision D18), with the whole of Vx. -/
def Obligations.FontAddressIsFiveTimesTheRegister : Prop :=
  ∀ (x : Nibble) (s : State),
    ∃ t, exec (.ldF x) s = .next t ∧ t.i.toNat = (s.reg x).toNat * 5 ∧ t.pc = s.pc + 2 ∧ Frame [] [.index] s t

/-- FX33 (43_index_memory.md R183): the decimal digits, hundreds at the lowest address (general knowledge by the spec's own
mark; assumption log 13), I unchanged, every other byte of memory unchanged. -/
def Obligations.BcdStoresThreeDigits : Prop :=
  ∀ (x : Nibble) (s : State), s.mem.wf → s.i.toNat + 2 < 4096 →
    ∃ t, exec (.ldB x) s = .next t ∧ (t.mem.read s.i.toNat).toNat = (s.reg x).toNat / 100 ∧
      (t.mem.read (s.i.toNat + 1)).toNat = (s.reg x).toNat / 10 % 10 ∧
      (t.mem.read (s.i.toNat + 2)).toNat = (s.reg x).toNat % 10 ∧
      (∀ a, a < s.i.toNat ∨ s.i.toNat + 2 < a → t.mem.read a = s.mem.read a) ∧ t.pc = s.pc + 2 ∧ Frame [] [.memory] s t

/-- FX55 in bounds and out of bounds (43_index_memory.md R184). The fatal clause is R243's, with the code and
the record of R249 (decision D31), nothing else changed (R241, R251, decision D10), the word by assumption log 8 and the
address by log 14 (both DEDUCED). -/
def Obligations.BlockStoreCopiesRegistersAndAdvancesI : Prop :=
  ∀ (x : Nibble) (s : State), s.mem.wf → WordIs (0xF055 + x.val * 256) (.ldMemStore x) ∧
    (s.i.toNat + x.val < 4096 → ∃ t, exec (.ldMemStore x) s = .next t ∧
      (∀ k : Nibble, k.val ≤ x.val → t.mem.read (s.i.toNat + k.val) = s.reg k) ∧
      t.i.toNat = (s.i.toNat + x.val + 1) % 65536 ∧ t.pc = s.pc + 2 ∧ NoFault s t ∧ FlagKept s t) ∧
    (4096 ≤ s.i.toNat + x.val → ∃ t, exec (.ldMemStore x) s = .next t ∧
      FatalAt .memOutOfBounds 2 (max s.i.toNat 4096) (some (BitVec.ofNat 16 (0xF055 + x.val * 256))) s t)

/-- FX65 in bounds and out of bounds (43_index_memory.md R185). The fatal clause is R243's, with the code and
the record of R249 (decision D31), nothing else changed (R241, R251, decision D10), the word by assumption log 8 and the
address by log 14 (both DEDUCED). -/
def Obligations.BlockLoadCopiesBytesAndAdvancesI : Prop :=
  ∀ (x : Nibble) (s : State), WordIs (0xF065 + x.val * 256) (.ldMemLoad x) ∧
    (s.i.toNat + x.val < 4096 → ∃ t, exec (.ldMemLoad x) s = .next t ∧
      (∀ k : Nibble, k.val ≤ x.val → t.reg k = s.mem.read (s.i.toNat + k.val)) ∧
      t.i.toNat = (s.i.toNat + x.val + 1) % 65536 ∧ t.pc = s.pc + 2 ∧ NoFault s t ∧
      (x ≠ 0xF → FlagKept s t)) ∧
    (4096 ≤ s.i.toNat + x.val → ∃ t, exec (.ldMemLoad x) s = .next t ∧
      FatalAt .memOutOfBounds 2 (max s.i.toNat 4096) (some (BitVec.ofNat 16 (0xF065 + x.val * 256))) s t)

/-- What the in-bounds index and block instructions leave unchanged (00_scope.md R17, decision D5): FX55 every byte outside
its block and every register, FX65 all of memory and the registers above Vx, ANNN all but I. -/
def Obligations.IndexAndBlockInstructionsFrame : Prop :=
  ∀ (x : Nibble) (nnn : Addr12) (s t : State),
    (exec (.ldI nnn) s = .next t → Frame [] [.index] s t) ∧
    (s.i.toNat + x.val < 4096 → exec (.ldMemStore x) s = .next t → Frame [] [.index, .memory] s t ∧
      ∀ a, a < s.i.toNat ∨ s.i.toNat + x.val < a → t.mem.read a = s.mem.read a) ∧
    (s.i.toNat + x.val < 4096 → exec (.ldMemLoad x) s = .next t →
      Frame ((List.finRange 16).filter fun k => k.val ≤ x.val) [.index] s t)

/-- The four instructions whose accesses can leave the address space, and what they record (60_exceptions.md R243). The code
and the record are decision D31 (R249); that nothing else changes is decision D10 (R66, R251); the word is assumption log 8
and the address max(I, 4096) log 14 (both DEDUCED). -/
def Obligations.OutOfBoundsBlocksHaltWithTheLowestBadAddress : Prop :=
  ∀ (x y : Nibble) (n : Nat) (s : State) (ins : Instr),
    (ins = .drw x y n ∧ ins.wf = true ∧ n > 0 ∧ s.i.toNat + n - 1 ≥ 4096) ∨ (ins = .ldB x ∧ s.i.toNat + 2 ≥ 4096) ∨
      (ins = .ldMemStore x ∧ s.i.toNat + x.val ≥ 4096) ∨ (ins = .ldMemLoad x ∧ s.i.toNat + x.val ≥ 4096) →
    ∃ t, exec ins s = .next t ∧ FatalAt .memOutOfBounds 2 (max s.i.toNat 4096) (some (encode ins)) s t

/-- A word that FX55 has just stored is what the next fetch reads, without any fence (20_memory.md R74, decision D27). -/
def Obligations.StoredBytesAreWhatTheNextFetchReads : Prop :=
  ∀ (x a b : Nibble) (s t : State), s.mem.wf → s.i.toNat + x.val < 4096 → exec (.ldMemStore x) s = .next t →
    b.val = a.val + 1 → b.val ≤ x.val → t.pc.toNat = s.i.toNat + a.val →
    ∃ w, t.fetch = some w ∧ w.toNat = (s.reg a).toNat * 256 + (s.reg b).toNat

/-! ## The display -/

/-- 00E0 (44_display.md R201): every cell clear, and redraw set whether or not a cell changed (decision D17). -/
def Obligations.ClearScreenClearsEveryCell : Prop :=
  ∀ s : State, ∃ t, exec .cls s = .next t ∧ (∀ k, t.fb.pixel k = false) ∧ t.redraw = true ∧ t.pc = s.pc + 2 ∧
    Frame [] [.display] s t

/-- DXYN in bounds, the empty sprite included (44_display.md R200, R202, R203; decisions D4, D16, D17): exactly the cells
targeted by set bits are toggled, VF is 1 exactly when one of them was set before, and nothing else changes. -/
def Obligations.DrawTogglesTheTargetedCells : Prop :=
  ∀ (x y : Nibble) (n : Nat) (s : State), (Instr.drw x y n).wf = true → (n = 0 ∨ s.i.toNat + n ≤ 4096) →
    ∃ t, exec (.drw x y n) s = .next t ∧ (∀ k, t.fb.pixel k ≠ s.fb.pixel k ↔ Targets s x y n k) ∧
      (t.reg 0xF = 1 ↔ ∃ k, Targets s x y n k ∧ s.fb.pixel k = true) ∧ (t.reg 0xF = 0 ∨ t.reg 0xF = 1) ∧
      t.redraw = true ∧ t.pc = s.pc + 2 ∧ Frame [0xF] [.display] s t

/-- The double draw (44_display.md R204): with coordinates that the first draw's flag cannot move, the second draw restores
the framebuffer, and sets VF exactly when some targeted cell was clear before the first. -/
def Obligations.DrawingTwiceRestoresTheFramebuffer : Prop :=
  ∀ (x y : Nibble) (n : Nat) (s : State), (Instr.drw x y n).wf = true → (n = 0 ∨ s.i.toNat + n ≤ 4096) → x ≠ 0xF →
    y ≠ 0xF → ∃ t u, exec (.drw x y n) s = .next t ∧ exec (.drw x y n) t = .next u ∧ u.fb = s.fb ∧
      (u.reg 0xF = 1 ↔ ∃ k, Targets s x y n k ∧ s.fb.pixel k = false)

/-! ## Keys and timers -/

/-- EX9E and EXA1 on a key index below 16 (45_keys_timers.md R220, R221). -/
def Obligations.KeySkipsFollowTheKey : Prop :=
  ∀ (x k : Nibble) (s : State), (s.reg x).toNat = k.val →
    (∃ t, exec (.skp x) s = .next t ∧ t.pc = (if s.keyDown k then s.pc + 4 else s.pc + 2) ∧ Frame [] [] s t) ∧
    (∃ t, exec (.sknp x) s = .next t ∧ t.pc = (if s.keyDown k then s.pc + 2 else s.pc + 4) ∧ Frame [] [] s t)

/-- EX9E and EXA1 on a key index of 16 or more halt with KeyOutOfRange (60_exceptions.md R247, decision D12). -/
def Obligations.KeySkipOutOfRangeHalts : Prop :=
  ∀ (x : Nibble) (s : State), 16 ≤ (s.reg x).toNat →
    (∃ t, exec (.skp x) s = .next t ∧
      FatalAt .keyOutOfRange 6 (s.reg x).toNat (some (BitVec.ofNat 16 (0xE09E + x.val * 256))) s t) ∧
    (∃ t, exec (.sknp x) s = .next t ∧
      FatalAt .keyOutOfRange 6 (s.reg x).toNat (some (BitVec.ofNat 16 (0xE0A1 + x.val * 256))) s t)

/-- FX0A with a key down (45_keys_timers.md R222; decision D13): the highest down key, level sensitive. -/
def Obligations.AwaitKeyTakesTheHighestDownKey : Prop :=
  ∀ (x k : Nibble) (s : State), s.keyDown k = true → (∀ j : Nibble, k < j → s.keyDown j = false) →
    ∃ t, exec (.ldK x) s = .next t ∧ (t.reg x).toNat = k.val ∧ t.pc = s.pc + 2 ∧ Frame [x] [] s t

/-- FX0A with no key down (45_keys_timers.md R222, decision D14): the step changes nothing but the timers and the outputs;
pc stays, so the next step executes it again. -/
def Obligations.AwaitKeyStallsWithoutAKey : Prop :=
  ∀ (x : Nibble) (s : State) (w : Word), s.halted = false → s.fetch = some w → decode w = .instr (.ldK x) →
    (∀ k, s.keyDown k = false) →
    ∃ t, step s = .next t ∧ t.pc = s.pc ∧ t.halted = false ∧ t.fetch = some w ∧
      t.loadResult = s.loadResult ∧ Frame [] [.delay, .sound, .outputs] s t

/-- R224: FX15, which writes DT; the tick of the same step decrements the new value. -/
def Obligations.WriteDelayTimerSetsDt : Prop :=
  ∀ (x : Nibble) (s : State), WordIs (0xF015 + x.val * 256) (.ldDtVx x) ∧
    ∃ t, exec (.ldDtVx x) s = .next t ∧ t.dt = s.reg x ∧ t.tick.dt.toNat = (s.reg x).toNat - 1 ∧
      t.pc = s.pc + 2 ∧ NoFault s t ∧ FlagKept s t

/-- FX07 copies DT before the tick, FX18 writes ST (45_keys_timers.md R223, R225; the two assignments are general knowledge
by the spec's own mark, assumption log 13), and the frame of FX15. -/
def Obligations.DelayIsReadAndSoundIsWritten : Prop :=
  ∀ (x : Nibble) (s : State),
    (∃ t, exec (.ldVxDt x) s = .next t ∧ t.reg x = s.dt ∧ t.pc = s.pc + 2 ∧ Frame [x] [] s t) ∧
    (∃ t, exec (.ldStVx x) s = .next t ∧ t.st = s.reg x ∧ t.pc = s.pc + 2 ∧ Frame [] [.sound] s t) ∧
    ∀ t, exec (.ldDtVx x) s = .next t → Frame [] [.delay] s t

/-! ## Rules about every instruction -/

/-- Every instruction ends with pc at pc + 2, pc + 4 (only a skip), its target (only 1NNN, 2NNN, 00EE, BNNN), or unchanged
(only FX0A with no key down, and a fatal fault) (40_cycle.md R115). -/
def Obligations.NextPcIsOneOfTheRuledCases : Prop :=
  ∀ (i : Instr) (s t : State), exec i s = .next t →
    t.pc = s.pc + 2 ∨
    (t.pc = s.pc + 4 ∧ ∃ x y nn, i ∈ [.seImm x nn, .sneImm x nn, .seReg x y, .sneReg x y, .skp x, .sknp x]) ∨
    (∃ nnn, (i = .jp nnn ∨ i = .call nnn) ∧ t.pc.toNat = nnn.toNat) ∨
    (∃ nnn, i = .jpV0 nnn ∧ t.pc.toNat = nnn.toNat + (s.reg 0).toNat) ∨
    (i = .ret ∧ ∃ k : Fin 16, s.sp.val = k.val + 1 ∧ t.pc = s.stack[k.val]) ∨
    (t.pc = s.pc ∧ ((∃ x, i = .ldK x ∧ ∀ k, s.keyDown k = false) ∨ t.halted = true))

/-- Which instruction writes what (10_state.md R22 to R36, 20_memory.md R68, 44_display.md R205): memory by FX33 and FX55
only, the framebuffer and redraw by 00E0 and DXYN only, the stack by 2NNN and 00EE only, I by ANNN, FX1E, FX29, FX55 and
FX65 only, DT by FX15 and ST by FX18 only, the keypad and the loader's result by none. -/
def Obligations.EachPartHasItsWriters : Prop :=
  ∀ (i : Instr) (s t : State), exec i s = .next t →
    ((∀ x, i ≠ .ldB x ∧ i ≠ .ldMemStore x) → t.mem = s.mem) ∧
    (i ≠ .cls → (∀ x y n, i ≠ .drw x y n) → t.fb = s.fb ∧ t.redraw = s.redraw) ∧
    (i ≠ .ret → (∀ nnn, i ≠ .call nnn) → t.stack = s.stack ∧ t.sp = s.sp) ∧
    ((∀ nnn, i ≠ .ldI nnn) → (∀ x, i ≠ .addI x ∧ i ≠ .ldF x ∧ i ≠ .ldMemStore x ∧ i ≠ .ldMemLoad x) → t.i = s.i) ∧
    ((∀ x, i ≠ .ldDtVx x) → t.dt = s.dt) ∧ ((∀ x, i ≠ .ldStVx x) → t.st = s.st) ∧ t.key = s.key ∧
    t.loadResult = s.loadResult

/-- The flag writers leave 0 or 1 in VF (10_state.md R23) when they complete, and an instruction that is none of them and
whose destination is not VF leaves VF as it was (42_alu.md R163). -/
def Obligations.FlagIsWrittenByItsWritersOnly : Prop :=
  ∀ (i : Instr) (s t : State), exec i s = .next t → t.halted = false →
    ((∃ x y n, i ∈ [.addReg x y, .sub x y, .shr x y, .subn x y, .shl x y, .drw x y n, .addI x]) →
      t.reg 0xF = 0 ∨ t.reg 0xF = 1) ∧
    ((∀ x y n, i ∉ [.addReg x y, .sub x y, .shr x y, .subn x y, .shl x y, .drw x y n, .addI x]) →
      (∀ y nn, i ∉ [.ldImm 0xF nn, .addImm 0xF nn, .ldReg 0xF y, .or 0xF y, .and 0xF y, .xor 0xF y, .rnd 0xF nn,
        .ldVxDt 0xF, .ldK 0xF, .ldMemLoad 0xF]) → t.reg 0xF = s.reg 0xF)

/-- The framebuffer of a step's result differs from the one before only if redraw is set, redraw is never cleared by a
step, and no step writes the keypad (44_display.md R205, 60_exceptions.md R260, R262). -/
def Obligations.StepSetsRedrawWhenTheScreenChanges : Prop :=
  ∀ s t : State, step s = .next t →
    (t.fb ≠ s.fb → t.redraw = true) ∧ (s.redraw = true → t.redraw = true) ∧ t.key = s.key ∧ t.loadResult = s.loadResult

/-- Stack slots at or above sp are hidden: states that differ only there step to states that differ only there, with the
same outputs (10_state.md R30). -/
def Obligations.StackSlotsAboveSpNeverMatter : Prop :=
  ∀ s t s' : State, AgreeBelowSp s t → step s = .next s' → ∃ t', step t = .next t' ∧ AgreeBelowSp s' t'

/-! ## The host's moves -/

/-- R77: the loader, which copies the whole program or nothing. -/
def Obligations.LoadCopiesTheWholeProgramOrNothing : Prop :=
  ∀ (s : State) (bytes : List Byte), s.mem.wf →
    (bytes.length > 3584 → (s.load bytes).mem = s.mem ∧ (s.load bytes).loadResult = some (.programTooLarge bytes.length)) ∧
    (bytes.length ≤ 3584 → (s.load bytes).loadResult = some .ok ∧
      (∀ (k : Nat) (b : Byte), bytes[k]? = some b → (s.load bytes).mem.read (0x200 + k) = b) ∧
      ∀ a, a < 0x200 ∨ 0x200 + bytes.length ≤ a → (s.load bytes).mem.read a = s.mem.read a)

/-- The host's moves change only what they name and keep the invariant: load memory and its result, whether or not the core
is halted; key_wr one key; redraw_ack the redraw flag (20_memory.md R78, 60_exceptions.md R260, R262, R268). -/
def Obligations.HostMovesChangeOnlyTheirPart : Prop :=
  ∀ (s : State) (bytes : List Byte) (k : Nibble) (down : Bool),
    s.load bytes = { s with mem := (s.load bytes).mem, loadResult := (s.load bytes).loadResult } ∧
    s.setKey k down = { s with key := (s.setKey k down).key } ∧
    (∀ j, (s.setKey k down).keyDown j = if j = k then down else s.keyDown j) ∧
    s.redrawAck = { s with redraw := false } ∧
    (s.Inv → (s.load bytes).Inv ∧ (s.setKey k down).Inv ∧ s.redrawAck.Inv)
end

