-- ==== Sys2Proof/Laws/Decode.lean ====
section
/-! SUPPORT. The fields of a word built from fields, and of a word built from bytes. -/

namespace Sys2Proof

/-- The four nibbles of a word built from four nibbles. -/
theorem fields_nibbles {g n : Nat} (x y : Nibble) (hg : g < 16) (hn : n < 16) :
    fieldG (nibbles g x.val y.val n) = g ∧ fieldX (nibbles g x.val y.val n) = x ∧
    fieldY (nibbles g x.val y.val n) = y ∧ fieldN (nibbles g x.val y.val n) = n := by
  have := x.isLt
  have := y.isLt
  simp only [fieldG, fieldX, fieldY, fieldN, slice, nibbles, BitVec.toNat_ofNat, Fin.ext_iff, Fin.val_ofNat]
  omega

/-- The group, X and low byte of a word of format XNN or X. -/
theorem fields_formatXNN {g nn : Nat} (x : Nibble) (hg : g < 16) (hn : nn < 256) :
    fieldG (formatXNN g x nn) = g ∧ fieldX (formatXNN g x nn) = x ∧ slice (formatXNN g x nn) 7 0 = nn := by
  have := x.isLt
  simp only [fieldG, fieldX, slice, formatXNN, BitVec.toNat_ofNat, Fin.ext_iff, Fin.val_ofNat]
  omega

/-- The group and address of a word of format NNN. -/
theorem fields_formatNNN {g : Nat} (nnn : Addr12) (hg : g < 16) :
    fieldG (formatNNN g nnn) = g ∧ fieldNNN (formatNNN g nnn) = nnn := by
  have := nnn.isLt
  simp only [fieldG, fieldNNN, slice, formatNNN, BitVec.toNat_ofNat, BitVec.toNat_eq]
  omega

/-- The low byte as the immediate. -/
theorem fieldNN_of_slice {w : Word} {nn : Byte} (h : slice w 7 0 = nn.toNat) : fieldNN w = nn := by
  rw [fieldNN, h, BitVec.ofNat_toNat, BitVec.setWidth_eq]

/-- The word of two bytes, as a number. -/
@[simp] theorem toNat_wordOfBytes (hi lo : Byte) : (wordOfBytes hi lo).toNat = hi.toNat * 256 + lo.toNat := by
  have := hi.isLt
  have := lo.isLt
  rw [wordOfBytes, BitVec.toNat_ofNat]
  omega

/-- A word's two bytes, put together, are the word. -/
@[simp] theorem wordOfBytes_high_low (w : Word) : wordOfBytes (highByte w) (lowByte w) = w := by
  have := w.isLt
  simp only [BitVec.toNat_eq, toNat_wordOfBytes, highByte, lowByte, slice, BitVec.toNat_ofNat]
  omega

/-- The group of a word is below 16. -/
theorem fieldG_lt (w : Word) : fieldG w < 16 := Nat.mod_lt _ (by decide)

/-- The low nibble of a word is below 16. -/
theorem fieldN_lt (w : Word) : fieldN w < 16 := Nat.mod_lt _ (by decide)

end Sys2Proof
end

