-- ==== Sys2Proof/Laws/Memory.lean ====
section
/-! SUPPORT. The laws of memory: a read after a write, a block, the canonical form, and equality of canonical memories. -/

namespace Sys2Proof.Machine

@[simp] theorem Memory.read_nil (a : Nat) : Memory.read [] a = Memory.background a := rfl

theorem Memory.read_cons (c : Host.Cell) (m : Memory) (a : Nat) :
    Memory.read (c :: m) a = if a = c.1 then c.2 else Memory.read m a := rfl

/-- The empty list is canonical. -/
theorem Memory.wf_nil : Memory.wf [] := ⟨.nil, fun _ h => nomatch h⟩

theorem Memory.wf_cons (c : Host.Cell) (m : Memory) :
    Memory.wf (c :: m) ↔ (∀ d ∈ m, c.1 < d.1) ∧ (c.1 < Config.memSize ∧ c.2 ≠ Memory.background c.1) ∧ Memory.wf m := by
  simp only [Memory.wf, List.pairwise_cons, List.forall_mem_cons]
  tauto

/-- An address that no entry has reads as unlisted. -/
theorem Memory.read_of_notMem {m : Memory} {a : Nat} (h : ∀ c ∈ m, c.1 ≠ a) : m.read a = Memory.background a := by
  induction m with
  | nil => rfl
  | cons c m ih =>
    rw [Memory.read_cons, if_neg fun e => h c (by simp) e.symm]
    exact ih fun d hd => h d (by simp [hd])

/-- A write leaves every other address alone, in any list. -/
theorem Memory.read_write_ne (m : Memory) {a b : Nat} (x : Byte) (h : b ≠ a) : (m.write a x).read b = m.read b := by
  induction m with
  | nil =>
    simp only [Memory.write]
    split
    · rfl
    · simp [Memory.read_cons, h]
  | cons c m ih =>
    obtain ⟨k, w⟩ := c
    simp only [Memory.write]
    split
    · split
      · rfl
      · simp [Memory.read_cons, h]
    · split
      · next hk =>
        split
        · simp [Memory.read_cons, ← hk, h]
        · simp [Memory.read_cons, ← hk, h]
      · simp only [Memory.read_cons, ih]

/-- A read of the address written gives the byte written. -/
theorem Memory.read_write_self {m : Memory} (hm : m.wf) (a : Nat) (x : Byte) : (m.write a x).read a = x := by
  induction m with
  | nil =>
    simp only [Memory.write]
    split
    · next h => simp [h]
    · simp [Memory.read_cons]
  | cons c m ih =>
    obtain ⟨k, w⟩ := c
    obtain ⟨hlt, -, hrest⟩ := (Memory.wf_cons _ _).1 hm
    simp only [Memory.write]
    split
    · next hk =>
      split
      · next hx =>
        rw [hx]
        refine Memory.read_of_notMem fun d hd => ?_
        rcases List.mem_cons.1 hd with rfl | hd
        · exact fun e => by simp at e; omega
        · have := hlt d hd
          simp only at this
          omega
      · simp [Memory.read_cons]
    · split
      · next hk =>
        split
        · next hx =>
          rw [hx]
          refine Memory.read_of_notMem fun d hd => ?_
          have := hlt d hd
          simp only at this
          omega
        · simp [Memory.read_cons]
      · next hk => simp [Memory.read_cons, hk, ih hrest]

/-- A read after a write, in one equation. -/
theorem Memory.read_write {m : Memory} (hm : m.wf) (a b : Nat) (x : Byte) :
    (m.write a x).read b = if b = a then x else m.read b := by
  split
  · next h => rw [h, Memory.read_write_self hm]
  · next h => exact Memory.read_write_ne m x h

/-- An entry of a written memory is the byte written or an entry from before. -/
theorem Memory.mem_write {m : Memory} {a : Nat} {x : Byte} {c : Host.Cell} (h : c ∈ m.write a x) :
    (c = (a, x) ∧ x ≠ Memory.background a) ∨ c ∈ m := by
  induction m with
  | nil =>
    simp only [Memory.write] at h
    split at h
    · cases h
    · next hx => exact .inl ⟨by simpa using h, hx⟩
  | cons d m ih =>
    obtain ⟨k, w⟩ := d
    simp only [Memory.write] at h
    split at h
    · split at h
      · exact .inr h
      · next hx => exact (List.mem_cons.1 h).imp (fun e => ⟨e, hx⟩) id
    · split at h
      · split at h
        · exact .inr (List.mem_cons_of_mem _ h)
        · next hx => exact (List.mem_cons.1 h).imp (fun e => ⟨e, hx⟩) (List.mem_cons_of_mem _)
      · rcases List.mem_cons.1 h with rfl | h
        · exact .inr (by simp)
        · exact (ih h).imp id (List.mem_cons_of_mem _)

/-- A write at an address of the space keeps the canonical form. -/
theorem Memory.wf_write {m : Memory} (hm : m.wf) {a : Nat} (ha : a < 4096) (x : Byte) : (m.write a x).wf := by
  induction m with
  | nil =>
    simp only [Memory.write]
    split
    · exact Memory.wf_nil
    · next hx => exact (Memory.wf_cons _ _).2 ⟨fun _ h => (nomatch h), ⟨ha, hx⟩, Memory.wf_nil⟩
  | cons c m ih =>
    obtain ⟨k, w⟩ := c
    obtain ⟨hlt, hc, hrest⟩ := (Memory.wf_cons _ _).1 hm
    simp only [Memory.write]
    split
    · next hk =>
      split
      · exact hm
      · next hx =>
        refine (Memory.wf_cons _ _).2 ⟨fun d hd => ?_, ⟨ha, hx⟩, hm⟩
        rcases List.mem_cons.1 hd with rfl | hd
        · exact hk
        · exact Nat.lt_trans hk (hlt d hd)
    · split
      · next hk =>
        split
        · exact hrest
        · next hx => exact (Memory.wf_cons _ _).2 ⟨fun d hd => hk ▸ hlt d hd, ⟨ha, hx⟩, hrest⟩
      · next hk =>
        refine (Memory.wf_cons _ _).2 ⟨fun d hd => ?_, hc, ih hrest⟩
        rcases Memory.mem_write hd with ⟨rfl, -⟩ | hd
        · exact show k < a by omega
        · exact hlt d hd

/-- A block write inside the space keeps the canonical form. -/
theorem Memory.wf_writeBlock {m : Memory} (hm : m.wf) {base : Nat} {xs : List Byte}
    (h : base + xs.length ≤ 4096) : (m.writeBlock base xs).wf := by
  induction xs generalizing m base with
  | nil => exact hm
  | cons x xs ih =>
    simp only [List.length_cons] at h
    exact ih (Memory.wf_write hm (by omega) x) (by omega)

/-- A block write leaves every address outside the block alone, in any list. -/
theorem Memory.read_writeBlock_outside (m : Memory) {base a : Nat} (xs : List Byte)
    (h : a < base ∨ base + xs.length ≤ a) : (m.writeBlock base xs).read a = m.read a := by
  induction xs generalizing m base with
  | nil => rfl
  | cons x xs ih =>
    simp only [List.length_cons] at h
    rw [Memory.writeBlock, ih _ (by omega), Memory.read_write_ne _ _ (by omega)]

/-- A block write puts the k-th byte at `base + k`. -/
theorem Memory.read_writeBlock_inside {m : Memory} (hm : m.wf) {base : Nat} {xs : List Byte}
    (hb : base + xs.length ≤ 4096) {k : Nat} {x : Byte} (hk : xs[k]? = some x) :
    (m.writeBlock base xs).read (base + k) = x := by
  induction xs generalizing m base k with
  | nil => simp at hk
  | cons y ys ih =>
    simp only [List.length_cons] at hb
    cases k with
    | zero =>
      simp only [List.getElem?_cons_zero, Option.some.injEq] at hk
      rw [Memory.writeBlock, Memory.read_writeBlock_outside _ _ (.inl (by omega)), Nat.add_zero,
        Memory.read_write_self hm, hk]
    | succ k =>
      rw [Memory.writeBlock, show base + (k + 1) = base + 1 + k by omega]
      exact ih (Memory.wf_write hm (by omega) y) (by omega) (by simpa using hk)

@[simp] theorem Memory.length_readBlock (m : Memory) (base len : Nat) : (m.readBlock base len).length = len := by
  simp [Memory.readBlock]

/-- The k-th byte of a block read. -/
theorem Memory.getElem?_readBlock (m : Memory) (base : Nat) {len k : Nat} (h : k < len) :
    (m.readBlock base len)[k]? = some (m.read (base + k)) := by
  simp [Memory.readBlock, h]

/-- Canonical memories that read alike are equal. -/
theorem Memory.ext_read {m n : Memory} (hm : m.wf) (hn : n.wf) (h : ∀ a, m.read a = n.read a) : m = n := by
  have low {c : Host.Cell} {m : Memory} (hw : Memory.wf (c :: m)) {a : Nat} (ha : a < c.1) :
      Memory.read (c :: m) a = Memory.background a := by
    refine Memory.read_of_notMem fun d hd => ?_
    rcases List.mem_cons.1 hd with rfl | hd
    · omega
    · have := ((Memory.wf_cons _ _).1 hw).1 d hd
      omega
  induction m generalizing n with
  | nil =>
    cases n with
    | nil => rfl
    | cons d n =>
      have := h d.1
      rw [Memory.read_nil, Memory.read_cons, if_pos rfl] at this
      exact absurd this.symm ((Memory.wf_cons _ _).1 hn).2.1.2
  | cons c m ih =>
    cases n with
    | nil =>
      have := h c.1
      rw [Memory.read_nil, Memory.read_cons, if_pos rfl] at this
      exact absurd this ((Memory.wf_cons _ _).1 hm).2.1.2
    | cons d n =>
      obtain ⟨hc, ⟨-, hcb⟩, hm'⟩ := (Memory.wf_cons _ _).1 hm
      obtain ⟨hd, ⟨-, hdb⟩, hn'⟩ := (Memory.wf_cons _ _).1 hn
      have hk : c.1 = d.1 := by
        rcases Nat.lt_trichotomy c.1 d.1 with hlt | he | hlt
        · have := h c.1
          rw [low hn hlt, Memory.read_cons, if_pos rfl] at this
          exact absurd this hcb
        · exact he
        · have := h d.1
          rw [low hm hlt, Memory.read_cons, if_pos rfl] at this
          exact absurd this.symm hdb
      have hv : c.2 = d.2 := by
        have := h c.1
        rwa [Memory.read_cons, if_pos rfl, Memory.read_cons, if_pos hk] at this
      have hrest : m = n := by
        refine ih hm' hn' fun a => ?_
        by_cases ha : a = c.1
        · have e1 : Memory.read m a = Memory.background a :=
            Memory.read_of_notMem fun e he => by have := hc e he; omega
          have e2 : Memory.read n a = Memory.background a :=
            Memory.read_of_notMem fun e he => by have := hd e he; omega
          rw [e1, e2]
        · have := h a
          rwa [Memory.read_cons, if_neg ha, Memory.read_cons, if_neg (hk ▸ ha)] at this
      rw [hrest, Prod.ext hk hv]

/-- A block fits exactly when it is empty or ends in the space. -/
theorem blockFits_iff (base len : Nat) : blockFits base len = true ↔ len = 0 ∨ base + len ≤ 4096 := by
  rw [blockFits, Bool.or_eq_true, beq_iff_eq, decide_eq_true_eq, Config.memSize]

end Sys2Proof.Machine
end

