-- ==== Sys2Proof/Laws/State.lean ====
section
/-! SUPPORT. One lemma per field per update of State, each true by rfl, so that no proof unfolds a record update. -/

namespace Sys2Proof.Machine

/-! ### `State.setReg` -/

@[simp] theorem State.setReg_v (s : State) (x : Nibble) (b : Byte) : (s.setReg x b).v = s.v.set x.val b := rfl
@[simp] theorem State.setReg_i (s : State) (x : Nibble) (b : Byte) : (s.setReg x b).i = s.i := rfl
@[simp] theorem State.setReg_pc (s : State) (x : Nibble) (b : Byte) : (s.setReg x b).pc = s.pc := rfl
@[simp] theorem State.setReg_stack (s : State) (x : Nibble) (b : Byte) : (s.setReg x b).stack = s.stack := rfl
@[simp] theorem State.setReg_sp (s : State) (x : Nibble) (b : Byte) : (s.setReg x b).sp = s.sp := rfl
@[simp] theorem State.setReg_dt (s : State) (x : Nibble) (b : Byte) : (s.setReg x b).dt = s.dt := rfl
@[simp] theorem State.setReg_st (s : State) (x : Nibble) (b : Byte) : (s.setReg x b).st = s.st := rfl
@[simp] theorem State.setReg_fb (s : State) (x : Nibble) (b : Byte) : (s.setReg x b).fb = s.fb := rfl
@[simp] theorem State.setReg_key (s : State) (x : Nibble) (b : Byte) : (s.setReg x b).key = s.key := rfl
@[simp] theorem State.setReg_redraw (s : State) (x : Nibble) (b : Byte) : (s.setReg x b).redraw = s.redraw := rfl
@[simp] theorem State.setReg_mem (s : State) (x : Nibble) (b : Byte) : (s.setReg x b).mem = s.mem := rfl
@[simp] theorem State.setReg_halted (s : State) (x : Nibble) (b : Byte) : (s.setReg x b).halted = s.halted := rfl
@[simp] theorem State.setReg_fault (s : State) (x : Nibble) (b : Byte) : (s.setReg x b).fault = s.fault := rfl
@[simp] theorem State.setReg_unkSeen (s : State) (x : Nibble) (b : Byte) : (s.setReg x b).unkSeen = s.unkSeen := rfl
@[simp] theorem State.setReg_unkWord (s : State) (x : Nibble) (b : Byte) : (s.setReg x b).unkWord = s.unkWord := rfl
@[simp] theorem State.setReg_unkPc (s : State) (x : Nibble) (b : Byte) : (s.setReg x b).unkPc = s.unkPc := rfl
@[simp] theorem State.setReg_soundEdge (s : State) (x : Nibble) (b : Byte) : (s.setReg x b).soundEdge = s.soundEdge := rfl
@[simp] theorem State.setReg_unknownOut (s : State) (x : Nibble) (b : Byte) : (s.setReg x b).unknownOut = s.unknownOut := rfl
@[simp] theorem State.setReg_faultOut (s : State) (x : Nibble) (b : Byte) : (s.setReg x b).faultOut = s.faultOut := rfl
@[simp] theorem State.setReg_loadResult (s : State) (x : Nibble) (b : Byte) : (s.setReg x b).loadResult = s.loadResult := rfl
@[simp] theorem State.setReg_draws (s : State) (x : Nibble) (b : Byte) : (s.setReg x b).draws = s.draws := rfl

/-! ### `State.loadRegs` -/

@[simp] theorem State.loadRegs_v (s : State) (x : Nibble) : (s.loadRegs x).v = Vector.ofFn fun k : Fin 16 => if k.val ≤ x.val then s.mem.read (s.base + k.val) else s.v[k.val] := rfl
@[simp] theorem State.loadRegs_i (s : State) (x : Nibble) : (s.loadRegs x).i = s.i := rfl
@[simp] theorem State.loadRegs_pc (s : State) (x : Nibble) : (s.loadRegs x).pc = s.pc := rfl
@[simp] theorem State.loadRegs_stack (s : State) (x : Nibble) : (s.loadRegs x).stack = s.stack := rfl
@[simp] theorem State.loadRegs_sp (s : State) (x : Nibble) : (s.loadRegs x).sp = s.sp := rfl
@[simp] theorem State.loadRegs_dt (s : State) (x : Nibble) : (s.loadRegs x).dt = s.dt := rfl
@[simp] theorem State.loadRegs_st (s : State) (x : Nibble) : (s.loadRegs x).st = s.st := rfl
@[simp] theorem State.loadRegs_fb (s : State) (x : Nibble) : (s.loadRegs x).fb = s.fb := rfl
@[simp] theorem State.loadRegs_key (s : State) (x : Nibble) : (s.loadRegs x).key = s.key := rfl
@[simp] theorem State.loadRegs_redraw (s : State) (x : Nibble) : (s.loadRegs x).redraw = s.redraw := rfl
@[simp] theorem State.loadRegs_mem (s : State) (x : Nibble) : (s.loadRegs x).mem = s.mem := rfl
@[simp] theorem State.loadRegs_halted (s : State) (x : Nibble) : (s.loadRegs x).halted = s.halted := rfl
@[simp] theorem State.loadRegs_fault (s : State) (x : Nibble) : (s.loadRegs x).fault = s.fault := rfl
@[simp] theorem State.loadRegs_unkSeen (s : State) (x : Nibble) : (s.loadRegs x).unkSeen = s.unkSeen := rfl
@[simp] theorem State.loadRegs_unkWord (s : State) (x : Nibble) : (s.loadRegs x).unkWord = s.unkWord := rfl
@[simp] theorem State.loadRegs_unkPc (s : State) (x : Nibble) : (s.loadRegs x).unkPc = s.unkPc := rfl
@[simp] theorem State.loadRegs_soundEdge (s : State) (x : Nibble) : (s.loadRegs x).soundEdge = s.soundEdge := rfl
@[simp] theorem State.loadRegs_unknownOut (s : State) (x : Nibble) : (s.loadRegs x).unknownOut = s.unknownOut := rfl
@[simp] theorem State.loadRegs_faultOut (s : State) (x : Nibble) : (s.loadRegs x).faultOut = s.faultOut := rfl
@[simp] theorem State.loadRegs_loadResult (s : State) (x : Nibble) : (s.loadRegs x).loadResult = s.loadResult := rfl
@[simp] theorem State.loadRegs_draws (s : State) (x : Nibble) : (s.loadRegs x).draws = s.draws := rfl

/-! ### `State.setI` -/

@[simp] theorem State.setI_v (s : State) (w : Word) : (s.setI w).v = s.v := rfl
@[simp] theorem State.setI_i (s : State) (w : Word) : (s.setI w).i = w := rfl
@[simp] theorem State.setI_pc (s : State) (w : Word) : (s.setI w).pc = s.pc := rfl
@[simp] theorem State.setI_stack (s : State) (w : Word) : (s.setI w).stack = s.stack := rfl
@[simp] theorem State.setI_sp (s : State) (w : Word) : (s.setI w).sp = s.sp := rfl
@[simp] theorem State.setI_dt (s : State) (w : Word) : (s.setI w).dt = s.dt := rfl
@[simp] theorem State.setI_st (s : State) (w : Word) : (s.setI w).st = s.st := rfl
@[simp] theorem State.setI_fb (s : State) (w : Word) : (s.setI w).fb = s.fb := rfl
@[simp] theorem State.setI_key (s : State) (w : Word) : (s.setI w).key = s.key := rfl
@[simp] theorem State.setI_redraw (s : State) (w : Word) : (s.setI w).redraw = s.redraw := rfl
@[simp] theorem State.setI_mem (s : State) (w : Word) : (s.setI w).mem = s.mem := rfl
@[simp] theorem State.setI_halted (s : State) (w : Word) : (s.setI w).halted = s.halted := rfl
@[simp] theorem State.setI_fault (s : State) (w : Word) : (s.setI w).fault = s.fault := rfl
@[simp] theorem State.setI_unkSeen (s : State) (w : Word) : (s.setI w).unkSeen = s.unkSeen := rfl
@[simp] theorem State.setI_unkWord (s : State) (w : Word) : (s.setI w).unkWord = s.unkWord := rfl
@[simp] theorem State.setI_unkPc (s : State) (w : Word) : (s.setI w).unkPc = s.unkPc := rfl
@[simp] theorem State.setI_soundEdge (s : State) (w : Word) : (s.setI w).soundEdge = s.soundEdge := rfl
@[simp] theorem State.setI_unknownOut (s : State) (w : Word) : (s.setI w).unknownOut = s.unknownOut := rfl
@[simp] theorem State.setI_faultOut (s : State) (w : Word) : (s.setI w).faultOut = s.faultOut := rfl
@[simp] theorem State.setI_loadResult (s : State) (w : Word) : (s.setI w).loadResult = s.loadResult := rfl
@[simp] theorem State.setI_draws (s : State) (w : Word) : (s.setI w).draws = s.draws := rfl

/-! ### `State.setMem` -/

@[simp] theorem State.setMem_v (s : State) (m : Memory) : (s.setMem m).v = s.v := rfl
@[simp] theorem State.setMem_i (s : State) (m : Memory) : (s.setMem m).i = s.i := rfl
@[simp] theorem State.setMem_pc (s : State) (m : Memory) : (s.setMem m).pc = s.pc := rfl
@[simp] theorem State.setMem_stack (s : State) (m : Memory) : (s.setMem m).stack = s.stack := rfl
@[simp] theorem State.setMem_sp (s : State) (m : Memory) : (s.setMem m).sp = s.sp := rfl
@[simp] theorem State.setMem_dt (s : State) (m : Memory) : (s.setMem m).dt = s.dt := rfl
@[simp] theorem State.setMem_st (s : State) (m : Memory) : (s.setMem m).st = s.st := rfl
@[simp] theorem State.setMem_fb (s : State) (m : Memory) : (s.setMem m).fb = s.fb := rfl
@[simp] theorem State.setMem_key (s : State) (m : Memory) : (s.setMem m).key = s.key := rfl
@[simp] theorem State.setMem_redraw (s : State) (m : Memory) : (s.setMem m).redraw = s.redraw := rfl
@[simp] theorem State.setMem_mem (s : State) (m : Memory) : (s.setMem m).mem = m := rfl
@[simp] theorem State.setMem_halted (s : State) (m : Memory) : (s.setMem m).halted = s.halted := rfl
@[simp] theorem State.setMem_fault (s : State) (m : Memory) : (s.setMem m).fault = s.fault := rfl
@[simp] theorem State.setMem_unkSeen (s : State) (m : Memory) : (s.setMem m).unkSeen = s.unkSeen := rfl
@[simp] theorem State.setMem_unkWord (s : State) (m : Memory) : (s.setMem m).unkWord = s.unkWord := rfl
@[simp] theorem State.setMem_unkPc (s : State) (m : Memory) : (s.setMem m).unkPc = s.unkPc := rfl
@[simp] theorem State.setMem_soundEdge (s : State) (m : Memory) : (s.setMem m).soundEdge = s.soundEdge := rfl
@[simp] theorem State.setMem_unknownOut (s : State) (m : Memory) : (s.setMem m).unknownOut = s.unknownOut := rfl
@[simp] theorem State.setMem_faultOut (s : State) (m : Memory) : (s.setMem m).faultOut = s.faultOut := rfl
@[simp] theorem State.setMem_loadResult (s : State) (m : Memory) : (s.setMem m).loadResult = s.loadResult := rfl
@[simp] theorem State.setMem_draws (s : State) (m : Memory) : (s.setMem m).draws = s.draws := rfl

/-! ### `State.setDt` -/

@[simp] theorem State.setDt_v (s : State) (b : Byte) : (s.setDt b).v = s.v := rfl
@[simp] theorem State.setDt_i (s : State) (b : Byte) : (s.setDt b).i = s.i := rfl
@[simp] theorem State.setDt_pc (s : State) (b : Byte) : (s.setDt b).pc = s.pc := rfl
@[simp] theorem State.setDt_stack (s : State) (b : Byte) : (s.setDt b).stack = s.stack := rfl
@[simp] theorem State.setDt_sp (s : State) (b : Byte) : (s.setDt b).sp = s.sp := rfl
@[simp] theorem State.setDt_dt (s : State) (b : Byte) : (s.setDt b).dt = b := rfl
@[simp] theorem State.setDt_st (s : State) (b : Byte) : (s.setDt b).st = s.st := rfl
@[simp] theorem State.setDt_fb (s : State) (b : Byte) : (s.setDt b).fb = s.fb := rfl
@[simp] theorem State.setDt_key (s : State) (b : Byte) : (s.setDt b).key = s.key := rfl
@[simp] theorem State.setDt_redraw (s : State) (b : Byte) : (s.setDt b).redraw = s.redraw := rfl
@[simp] theorem State.setDt_mem (s : State) (b : Byte) : (s.setDt b).mem = s.mem := rfl
@[simp] theorem State.setDt_halted (s : State) (b : Byte) : (s.setDt b).halted = s.halted := rfl
@[simp] theorem State.setDt_fault (s : State) (b : Byte) : (s.setDt b).fault = s.fault := rfl
@[simp] theorem State.setDt_unkSeen (s : State) (b : Byte) : (s.setDt b).unkSeen = s.unkSeen := rfl
@[simp] theorem State.setDt_unkWord (s : State) (b : Byte) : (s.setDt b).unkWord = s.unkWord := rfl
@[simp] theorem State.setDt_unkPc (s : State) (b : Byte) : (s.setDt b).unkPc = s.unkPc := rfl
@[simp] theorem State.setDt_soundEdge (s : State) (b : Byte) : (s.setDt b).soundEdge = s.soundEdge := rfl
@[simp] theorem State.setDt_unknownOut (s : State) (b : Byte) : (s.setDt b).unknownOut = s.unknownOut := rfl
@[simp] theorem State.setDt_faultOut (s : State) (b : Byte) : (s.setDt b).faultOut = s.faultOut := rfl
@[simp] theorem State.setDt_loadResult (s : State) (b : Byte) : (s.setDt b).loadResult = s.loadResult := rfl
@[simp] theorem State.setDt_draws (s : State) (b : Byte) : (s.setDt b).draws = s.draws := rfl

/-! ### `State.setSt` -/

@[simp] theorem State.setSt_v (s : State) (b : Byte) : (s.setSt b).v = s.v := rfl
@[simp] theorem State.setSt_i (s : State) (b : Byte) : (s.setSt b).i = s.i := rfl
@[simp] theorem State.setSt_pc (s : State) (b : Byte) : (s.setSt b).pc = s.pc := rfl
@[simp] theorem State.setSt_stack (s : State) (b : Byte) : (s.setSt b).stack = s.stack := rfl
@[simp] theorem State.setSt_sp (s : State) (b : Byte) : (s.setSt b).sp = s.sp := rfl
@[simp] theorem State.setSt_dt (s : State) (b : Byte) : (s.setSt b).dt = s.dt := rfl
@[simp] theorem State.setSt_st (s : State) (b : Byte) : (s.setSt b).st = b := rfl
@[simp] theorem State.setSt_fb (s : State) (b : Byte) : (s.setSt b).fb = s.fb := rfl
@[simp] theorem State.setSt_key (s : State) (b : Byte) : (s.setSt b).key = s.key := rfl
@[simp] theorem State.setSt_redraw (s : State) (b : Byte) : (s.setSt b).redraw = s.redraw := rfl
@[simp] theorem State.setSt_mem (s : State) (b : Byte) : (s.setSt b).mem = s.mem := rfl
@[simp] theorem State.setSt_halted (s : State) (b : Byte) : (s.setSt b).halted = s.halted := rfl
@[simp] theorem State.setSt_fault (s : State) (b : Byte) : (s.setSt b).fault = s.fault := rfl
@[simp] theorem State.setSt_unkSeen (s : State) (b : Byte) : (s.setSt b).unkSeen = s.unkSeen := rfl
@[simp] theorem State.setSt_unkWord (s : State) (b : Byte) : (s.setSt b).unkWord = s.unkWord := rfl
@[simp] theorem State.setSt_unkPc (s : State) (b : Byte) : (s.setSt b).unkPc = s.unkPc := rfl
@[simp] theorem State.setSt_soundEdge (s : State) (b : Byte) : (s.setSt b).soundEdge = s.soundEdge := rfl
@[simp] theorem State.setSt_unknownOut (s : State) (b : Byte) : (s.setSt b).unknownOut = s.unknownOut := rfl
@[simp] theorem State.setSt_faultOut (s : State) (b : Byte) : (s.setSt b).faultOut = s.faultOut := rfl
@[simp] theorem State.setSt_loadResult (s : State) (b : Byte) : (s.setSt b).loadResult = s.loadResult := rfl
@[simp] theorem State.setSt_draws (s : State) (b : Byte) : (s.setSt b).draws = s.draws := rfl

/-! ### `State.display` -/

@[simp] theorem State.display_v (s : State) (fb : FrameBuffer) : (s.display fb).v = s.v := rfl
@[simp] theorem State.display_i (s : State) (fb : FrameBuffer) : (s.display fb).i = s.i := rfl
@[simp] theorem State.display_pc (s : State) (fb : FrameBuffer) : (s.display fb).pc = s.pc := rfl
@[simp] theorem State.display_stack (s : State) (fb : FrameBuffer) : (s.display fb).stack = s.stack := rfl
@[simp] theorem State.display_sp (s : State) (fb : FrameBuffer) : (s.display fb).sp = s.sp := rfl
@[simp] theorem State.display_dt (s : State) (fb : FrameBuffer) : (s.display fb).dt = s.dt := rfl
@[simp] theorem State.display_st (s : State) (fb : FrameBuffer) : (s.display fb).st = s.st := rfl
@[simp] theorem State.display_fb (s : State) (fb : FrameBuffer) : (s.display fb).fb = fb := rfl
@[simp] theorem State.display_key (s : State) (fb : FrameBuffer) : (s.display fb).key = s.key := rfl
@[simp] theorem State.display_redraw (s : State) (fb : FrameBuffer) : (s.display fb).redraw = true := rfl
@[simp] theorem State.display_mem (s : State) (fb : FrameBuffer) : (s.display fb).mem = s.mem := rfl
@[simp] theorem State.display_halted (s : State) (fb : FrameBuffer) : (s.display fb).halted = s.halted := rfl
@[simp] theorem State.display_fault (s : State) (fb : FrameBuffer) : (s.display fb).fault = s.fault := rfl
@[simp] theorem State.display_unkSeen (s : State) (fb : FrameBuffer) : (s.display fb).unkSeen = s.unkSeen := rfl
@[simp] theorem State.display_unkWord (s : State) (fb : FrameBuffer) : (s.display fb).unkWord = s.unkWord := rfl
@[simp] theorem State.display_unkPc (s : State) (fb : FrameBuffer) : (s.display fb).unkPc = s.unkPc := rfl
@[simp] theorem State.display_soundEdge (s : State) (fb : FrameBuffer) : (s.display fb).soundEdge = s.soundEdge := rfl
@[simp] theorem State.display_unknownOut (s : State) (fb : FrameBuffer) : (s.display fb).unknownOut = s.unknownOut := rfl
@[simp] theorem State.display_faultOut (s : State) (fb : FrameBuffer) : (s.display fb).faultOut = s.faultOut := rfl
@[simp] theorem State.display_loadResult (s : State) (fb : FrameBuffer) : (s.display fb).loadResult = s.loadResult := rfl
@[simp] theorem State.display_draws (s : State) (fb : FrameBuffer) : (s.display fb).draws = s.draws := rfl

/-! ### `State.jump` -/

@[simp] theorem State.jump_v (s : State) (w : Word) : (s.jump w).v = s.v := rfl
@[simp] theorem State.jump_i (s : State) (w : Word) : (s.jump w).i = s.i := rfl
@[simp] theorem State.jump_pc (s : State) (w : Word) : (s.jump w).pc = w := rfl
@[simp] theorem State.jump_stack (s : State) (w : Word) : (s.jump w).stack = s.stack := rfl
@[simp] theorem State.jump_sp (s : State) (w : Word) : (s.jump w).sp = s.sp := rfl
@[simp] theorem State.jump_dt (s : State) (w : Word) : (s.jump w).dt = s.dt := rfl
@[simp] theorem State.jump_st (s : State) (w : Word) : (s.jump w).st = s.st := rfl
@[simp] theorem State.jump_fb (s : State) (w : Word) : (s.jump w).fb = s.fb := rfl
@[simp] theorem State.jump_key (s : State) (w : Word) : (s.jump w).key = s.key := rfl
@[simp] theorem State.jump_redraw (s : State) (w : Word) : (s.jump w).redraw = s.redraw := rfl
@[simp] theorem State.jump_mem (s : State) (w : Word) : (s.jump w).mem = s.mem := rfl
@[simp] theorem State.jump_halted (s : State) (w : Word) : (s.jump w).halted = s.halted := rfl
@[simp] theorem State.jump_fault (s : State) (w : Word) : (s.jump w).fault = s.fault := rfl
@[simp] theorem State.jump_unkSeen (s : State) (w : Word) : (s.jump w).unkSeen = s.unkSeen := rfl
@[simp] theorem State.jump_unkWord (s : State) (w : Word) : (s.jump w).unkWord = s.unkWord := rfl
@[simp] theorem State.jump_unkPc (s : State) (w : Word) : (s.jump w).unkPc = s.unkPc := rfl
@[simp] theorem State.jump_soundEdge (s : State) (w : Word) : (s.jump w).soundEdge = s.soundEdge := rfl
@[simp] theorem State.jump_unknownOut (s : State) (w : Word) : (s.jump w).unknownOut = s.unknownOut := rfl
@[simp] theorem State.jump_faultOut (s : State) (w : Word) : (s.jump w).faultOut = s.faultOut := rfl
@[simp] theorem State.jump_loadResult (s : State) (w : Word) : (s.jump w).loadResult = s.loadResult := rfl
@[simp] theorem State.jump_draws (s : State) (w : Word) : (s.jump w).draws = s.draws := rfl

/-! ### `State.push` -/

@[simp] theorem State.push_v (s : State) (w : Word) (h : s.sp.val < 16) : (s.push w h).v = s.v := rfl
@[simp] theorem State.push_i (s : State) (w : Word) (h : s.sp.val < 16) : (s.push w h).i = s.i := rfl
@[simp] theorem State.push_pc (s : State) (w : Word) (h : s.sp.val < 16) : (s.push w h).pc = s.pc := rfl
@[simp] theorem State.push_stack (s : State) (w : Word) (h : s.sp.val < 16) : (s.push w h).stack = s.stack.set s.sp.val w := rfl
@[simp] theorem State.push_sp (s : State) (w : Word) (h : s.sp.val < 16) : (s.push w h).sp = ⟨s.sp.val + 1, Nat.succ_lt_succ h⟩ := rfl
@[simp] theorem State.push_dt (s : State) (w : Word) (h : s.sp.val < 16) : (s.push w h).dt = s.dt := rfl
@[simp] theorem State.push_st (s : State) (w : Word) (h : s.sp.val < 16) : (s.push w h).st = s.st := rfl
@[simp] theorem State.push_fb (s : State) (w : Word) (h : s.sp.val < 16) : (s.push w h).fb = s.fb := rfl
@[simp] theorem State.push_key (s : State) (w : Word) (h : s.sp.val < 16) : (s.push w h).key = s.key := rfl
@[simp] theorem State.push_redraw (s : State) (w : Word) (h : s.sp.val < 16) : (s.push w h).redraw = s.redraw := rfl
@[simp] theorem State.push_mem (s : State) (w : Word) (h : s.sp.val < 16) : (s.push w h).mem = s.mem := rfl
@[simp] theorem State.push_halted (s : State) (w : Word) (h : s.sp.val < 16) : (s.push w h).halted = s.halted := rfl
@[simp] theorem State.push_fault (s : State) (w : Word) (h : s.sp.val < 16) : (s.push w h).fault = s.fault := rfl
@[simp] theorem State.push_unkSeen (s : State) (w : Word) (h : s.sp.val < 16) : (s.push w h).unkSeen = s.unkSeen := rfl
@[simp] theorem State.push_unkWord (s : State) (w : Word) (h : s.sp.val < 16) : (s.push w h).unkWord = s.unkWord := rfl
@[simp] theorem State.push_unkPc (s : State) (w : Word) (h : s.sp.val < 16) : (s.push w h).unkPc = s.unkPc := rfl
@[simp] theorem State.push_soundEdge (s : State) (w : Word) (h : s.sp.val < 16) : (s.push w h).soundEdge = s.soundEdge := rfl
@[simp] theorem State.push_unknownOut (s : State) (w : Word) (h : s.sp.val < 16) : (s.push w h).unknownOut = s.unknownOut := rfl
@[simp] theorem State.push_faultOut (s : State) (w : Word) (h : s.sp.val < 16) : (s.push w h).faultOut = s.faultOut := rfl
@[simp] theorem State.push_loadResult (s : State) (w : Word) (h : s.sp.val < 16) : (s.push w h).loadResult = s.loadResult := rfl
@[simp] theorem State.push_draws (s : State) (w : Word) (h : s.sp.val < 16) : (s.push w h).draws = s.draws := rfl

/-! ### `State.pop` -/

@[simp] theorem State.pop_v (s : State) : (s.pop).v = s.v := rfl
@[simp] theorem State.pop_i (s : State) : (s.pop).i = s.i := rfl
@[simp] theorem State.pop_pc (s : State) : (s.pop).pc = s.pc := rfl
@[simp] theorem State.pop_stack (s : State) : (s.pop).stack = s.stack := rfl
@[simp] theorem State.pop_sp (s : State) : (s.pop).sp = ⟨s.sp.val - 1, Nat.lt_of_le_of_lt (Nat.sub_le _ _) s.sp.isLt⟩ := rfl
@[simp] theorem State.pop_dt (s : State) : (s.pop).dt = s.dt := rfl
@[simp] theorem State.pop_st (s : State) : (s.pop).st = s.st := rfl
@[simp] theorem State.pop_fb (s : State) : (s.pop).fb = s.fb := rfl
@[simp] theorem State.pop_key (s : State) : (s.pop).key = s.key := rfl
@[simp] theorem State.pop_redraw (s : State) : (s.pop).redraw = s.redraw := rfl
@[simp] theorem State.pop_mem (s : State) : (s.pop).mem = s.mem := rfl
@[simp] theorem State.pop_halted (s : State) : (s.pop).halted = s.halted := rfl
@[simp] theorem State.pop_fault (s : State) : (s.pop).fault = s.fault := rfl
@[simp] theorem State.pop_unkSeen (s : State) : (s.pop).unkSeen = s.unkSeen := rfl
@[simp] theorem State.pop_unkWord (s : State) : (s.pop).unkWord = s.unkWord := rfl
@[simp] theorem State.pop_unkPc (s : State) : (s.pop).unkPc = s.unkPc := rfl
@[simp] theorem State.pop_soundEdge (s : State) : (s.pop).soundEdge = s.soundEdge := rfl
@[simp] theorem State.pop_unknownOut (s : State) : (s.pop).unknownOut = s.unknownOut := rfl
@[simp] theorem State.pop_faultOut (s : State) : (s.pop).faultOut = s.faultOut := rfl
@[simp] theorem State.pop_loadResult (s : State) : (s.pop).loadResult = s.loadResult := rfl
@[simp] theorem State.pop_draws (s : State) : (s.pop).draws = s.draws := rfl

/-! ### `State.clearOutputs` -/

@[simp] theorem State.clearOutputs_v (s : State) : (s.clearOutputs).v = s.v := rfl
@[simp] theorem State.clearOutputs_i (s : State) : (s.clearOutputs).i = s.i := rfl
@[simp] theorem State.clearOutputs_pc (s : State) : (s.clearOutputs).pc = s.pc := rfl
@[simp] theorem State.clearOutputs_stack (s : State) : (s.clearOutputs).stack = s.stack := rfl
@[simp] theorem State.clearOutputs_sp (s : State) : (s.clearOutputs).sp = s.sp := rfl
@[simp] theorem State.clearOutputs_dt (s : State) : (s.clearOutputs).dt = s.dt := rfl
@[simp] theorem State.clearOutputs_st (s : State) : (s.clearOutputs).st = s.st := rfl
@[simp] theorem State.clearOutputs_fb (s : State) : (s.clearOutputs).fb = s.fb := rfl
@[simp] theorem State.clearOutputs_key (s : State) : (s.clearOutputs).key = s.key := rfl
@[simp] theorem State.clearOutputs_redraw (s : State) : (s.clearOutputs).redraw = s.redraw := rfl
@[simp] theorem State.clearOutputs_mem (s : State) : (s.clearOutputs).mem = s.mem := rfl
@[simp] theorem State.clearOutputs_halted (s : State) : (s.clearOutputs).halted = s.halted := rfl
@[simp] theorem State.clearOutputs_fault (s : State) : (s.clearOutputs).fault = s.fault := rfl
@[simp] theorem State.clearOutputs_unkSeen (s : State) : (s.clearOutputs).unkSeen = s.unkSeen := rfl
@[simp] theorem State.clearOutputs_unkWord (s : State) : (s.clearOutputs).unkWord = s.unkWord := rfl
@[simp] theorem State.clearOutputs_unkPc (s : State) : (s.clearOutputs).unkPc = s.unkPc := rfl
@[simp] theorem State.clearOutputs_soundEdge (s : State) : (s.clearOutputs).soundEdge = false := rfl
@[simp] theorem State.clearOutputs_unknownOut (s : State) : (s.clearOutputs).unknownOut = none := rfl
@[simp] theorem State.clearOutputs_faultOut (s : State) : (s.clearOutputs).faultOut = none := rfl
@[simp] theorem State.clearOutputs_loadResult (s : State) : (s.clearOutputs).loadResult = s.loadResult := rfl
@[simp] theorem State.clearOutputs_draws (s : State) : (s.clearOutputs).draws = s.draws := rfl

/-! ### `State.executeUnknown` -/

@[simp] theorem State.executeUnknown_v (s : State) (w : Word) : (s.executeUnknown w).v = s.v := rfl
@[simp] theorem State.executeUnknown_i (s : State) (w : Word) : (s.executeUnknown w).i = s.i := rfl
@[simp] theorem State.executeUnknown_pc (s : State) (w : Word) : (s.executeUnknown w).pc = s.pc + Config.unknownPcAdvance := rfl
@[simp] theorem State.executeUnknown_stack (s : State) (w : Word) : (s.executeUnknown w).stack = s.stack := rfl
@[simp] theorem State.executeUnknown_sp (s : State) (w : Word) : (s.executeUnknown w).sp = s.sp := rfl
@[simp] theorem State.executeUnknown_dt (s : State) (w : Word) : (s.executeUnknown w).dt = s.dt := rfl
@[simp] theorem State.executeUnknown_st (s : State) (w : Word) : (s.executeUnknown w).st = s.st := rfl
@[simp] theorem State.executeUnknown_fb (s : State) (w : Word) : (s.executeUnknown w).fb = s.fb := rfl
@[simp] theorem State.executeUnknown_key (s : State) (w : Word) : (s.executeUnknown w).key = s.key := rfl
@[simp] theorem State.executeUnknown_redraw (s : State) (w : Word) : (s.executeUnknown w).redraw = s.redraw := rfl
@[simp] theorem State.executeUnknown_mem (s : State) (w : Word) : (s.executeUnknown w).mem = s.mem := rfl
@[simp] theorem State.executeUnknown_halted (s : State) (w : Word) : (s.executeUnknown w).halted = s.halted := rfl
@[simp] theorem State.executeUnknown_fault (s : State) (w : Word) : (s.executeUnknown w).fault = s.fault := rfl
@[simp] theorem State.executeUnknown_unkSeen (s : State) (w : Word) : (s.executeUnknown w).unkSeen = true := rfl
@[simp] theorem State.executeUnknown_unkWord (s : State) (w : Word) : (s.executeUnknown w).unkWord = w := rfl
@[simp] theorem State.executeUnknown_unkPc (s : State) (w : Word) : (s.executeUnknown w).unkPc = s.pc := rfl
@[simp] theorem State.executeUnknown_soundEdge (s : State) (w : Word) : (s.executeUnknown w).soundEdge = s.soundEdge := rfl
@[simp] theorem State.executeUnknown_unknownOut (s : State) (w : Word) : (s.executeUnknown w).unknownOut = some (w, s.pc) := rfl
@[simp] theorem State.executeUnknown_faultOut (s : State) (w : Word) : (s.executeUnknown w).faultOut = s.faultOut := rfl
@[simp] theorem State.executeUnknown_loadResult (s : State) (w : Word) : (s.executeUnknown w).loadResult = s.loadResult := rfl
@[simp] theorem State.executeUnknown_draws (s : State) (w : Word) : (s.executeUnknown w).draws = s.draws := rfl

/-! ### `State.tick` -/

@[simp] theorem State.tick_v (s : State) : (s.tick).v = s.v := rfl
@[simp] theorem State.tick_i (s : State) : (s.tick).i = s.i := rfl
@[simp] theorem State.tick_pc (s : State) : (s.tick).pc = s.pc := rfl
@[simp] theorem State.tick_stack (s : State) : (s.tick).stack = s.stack := rfl
@[simp] theorem State.tick_sp (s : State) : (s.tick).sp = s.sp := rfl
@[simp] theorem State.tick_dt (s : State) : (s.tick).dt = tickDown s.dt := rfl
@[simp] theorem State.tick_st (s : State) : (s.tick).st = tickDown s.st := rfl
@[simp] theorem State.tick_fb (s : State) : (s.tick).fb = s.fb := rfl
@[simp] theorem State.tick_key (s : State) : (s.tick).key = s.key := rfl
@[simp] theorem State.tick_redraw (s : State) : (s.tick).redraw = s.redraw := rfl
@[simp] theorem State.tick_mem (s : State) : (s.tick).mem = s.mem := rfl
@[simp] theorem State.tick_halted (s : State) : (s.tick).halted = s.halted := rfl
@[simp] theorem State.tick_fault (s : State) : (s.tick).fault = s.fault := rfl
@[simp] theorem State.tick_unkSeen (s : State) : (s.tick).unkSeen = s.unkSeen := rfl
@[simp] theorem State.tick_unkWord (s : State) : (s.tick).unkWord = s.unkWord := rfl
@[simp] theorem State.tick_unkPc (s : State) : (s.tick).unkPc = s.unkPc := rfl
@[simp] theorem State.tick_soundEdge (s : State) : (s.tick).soundEdge = (s.st == 1#8) := rfl
@[simp] theorem State.tick_unknownOut (s : State) : (s.tick).unknownOut = s.unknownOut := rfl
@[simp] theorem State.tick_faultOut (s : State) : (s.tick).faultOut = s.faultOut := rfl
@[simp] theorem State.tick_loadResult (s : State) : (s.tick).loadResult = s.loadResult := rfl
@[simp] theorem State.tick_draws (s : State) : (s.tick).draws = s.draws := rfl

/-! ### `State.nextRandom` -/

@[simp] theorem State.nextRandom_v (s : State) : (s.nextRandom.2).v = s.v := rfl
@[simp] theorem State.nextRandom_i (s : State) : (s.nextRandom.2).i = s.i := rfl
@[simp] theorem State.nextRandom_pc (s : State) : (s.nextRandom.2).pc = s.pc := rfl
@[simp] theorem State.nextRandom_stack (s : State) : (s.nextRandom.2).stack = s.stack := rfl
@[simp] theorem State.nextRandom_sp (s : State) : (s.nextRandom.2).sp = s.sp := rfl
@[simp] theorem State.nextRandom_dt (s : State) : (s.nextRandom.2).dt = s.dt := rfl
@[simp] theorem State.nextRandom_st (s : State) : (s.nextRandom.2).st = s.st := rfl
@[simp] theorem State.nextRandom_fb (s : State) : (s.nextRandom.2).fb = s.fb := rfl
@[simp] theorem State.nextRandom_key (s : State) : (s.nextRandom.2).key = s.key := rfl
@[simp] theorem State.nextRandom_redraw (s : State) : (s.nextRandom.2).redraw = s.redraw := rfl
@[simp] theorem State.nextRandom_mem (s : State) : (s.nextRandom.2).mem = s.mem := rfl
@[simp] theorem State.nextRandom_halted (s : State) : (s.nextRandom.2).halted = s.halted := rfl
@[simp] theorem State.nextRandom_fault (s : State) : (s.nextRandom.2).fault = s.fault := rfl
@[simp] theorem State.nextRandom_unkSeen (s : State) : (s.nextRandom.2).unkSeen = s.unkSeen := rfl
@[simp] theorem State.nextRandom_unkWord (s : State) : (s.nextRandom.2).unkWord = s.unkWord := rfl
@[simp] theorem State.nextRandom_unkPc (s : State) : (s.nextRandom.2).unkPc = s.unkPc := rfl
@[simp] theorem State.nextRandom_soundEdge (s : State) : (s.nextRandom.2).soundEdge = s.soundEdge := rfl
@[simp] theorem State.nextRandom_unknownOut (s : State) : (s.nextRandom.2).unknownOut = s.unknownOut := rfl
@[simp] theorem State.nextRandom_faultOut (s : State) : (s.nextRandom.2).faultOut = s.faultOut := rfl
@[simp] theorem State.nextRandom_loadResult (s : State) : (s.nextRandom.2).loadResult = s.loadResult := rfl
@[simp] theorem State.nextRandom_draws (s : State) : (s.nextRandom.2).draws = s.draws + 1 := rfl

/-! ### `State.setKey` -/

@[simp] theorem State.setKey_v (s : State) (k : Nibble) (d : Bool) : (s.setKey k d).v = s.v := rfl
@[simp] theorem State.setKey_i (s : State) (k : Nibble) (d : Bool) : (s.setKey k d).i = s.i := rfl
@[simp] theorem State.setKey_pc (s : State) (k : Nibble) (d : Bool) : (s.setKey k d).pc = s.pc := rfl
@[simp] theorem State.setKey_stack (s : State) (k : Nibble) (d : Bool) : (s.setKey k d).stack = s.stack := rfl
@[simp] theorem State.setKey_sp (s : State) (k : Nibble) (d : Bool) : (s.setKey k d).sp = s.sp := rfl
@[simp] theorem State.setKey_dt (s : State) (k : Nibble) (d : Bool) : (s.setKey k d).dt = s.dt := rfl
@[simp] theorem State.setKey_st (s : State) (k : Nibble) (d : Bool) : (s.setKey k d).st = s.st := rfl
@[simp] theorem State.setKey_fb (s : State) (k : Nibble) (d : Bool) : (s.setKey k d).fb = s.fb := rfl
@[simp] theorem State.setKey_key (s : State) (k : Nibble) (d : Bool) : (s.setKey k d).key = s.key.set k.val d := rfl
@[simp] theorem State.setKey_redraw (s : State) (k : Nibble) (d : Bool) : (s.setKey k d).redraw = s.redraw := rfl
@[simp] theorem State.setKey_mem (s : State) (k : Nibble) (d : Bool) : (s.setKey k d).mem = s.mem := rfl
@[simp] theorem State.setKey_halted (s : State) (k : Nibble) (d : Bool) : (s.setKey k d).halted = s.halted := rfl
@[simp] theorem State.setKey_fault (s : State) (k : Nibble) (d : Bool) : (s.setKey k d).fault = s.fault := rfl
@[simp] theorem State.setKey_unkSeen (s : State) (k : Nibble) (d : Bool) : (s.setKey k d).unkSeen = s.unkSeen := rfl
@[simp] theorem State.setKey_unkWord (s : State) (k : Nibble) (d : Bool) : (s.setKey k d).unkWord = s.unkWord := rfl
@[simp] theorem State.setKey_unkPc (s : State) (k : Nibble) (d : Bool) : (s.setKey k d).unkPc = s.unkPc := rfl
@[simp] theorem State.setKey_soundEdge (s : State) (k : Nibble) (d : Bool) : (s.setKey k d).soundEdge = s.soundEdge := rfl
@[simp] theorem State.setKey_unknownOut (s : State) (k : Nibble) (d : Bool) : (s.setKey k d).unknownOut = s.unknownOut := rfl
@[simp] theorem State.setKey_faultOut (s : State) (k : Nibble) (d : Bool) : (s.setKey k d).faultOut = s.faultOut := rfl
@[simp] theorem State.setKey_loadResult (s : State) (k : Nibble) (d : Bool) : (s.setKey k d).loadResult = s.loadResult := rfl
@[simp] theorem State.setKey_draws (s : State) (k : Nibble) (d : Bool) : (s.setKey k d).draws = s.draws := rfl

/-! ### `State.redrawAck` -/

@[simp] theorem State.redrawAck_v (s : State) : (s.redrawAck).v = s.v := rfl
@[simp] theorem State.redrawAck_i (s : State) : (s.redrawAck).i = s.i := rfl
@[simp] theorem State.redrawAck_pc (s : State) : (s.redrawAck).pc = s.pc := rfl
@[simp] theorem State.redrawAck_stack (s : State) : (s.redrawAck).stack = s.stack := rfl
@[simp] theorem State.redrawAck_sp (s : State) : (s.redrawAck).sp = s.sp := rfl
@[simp] theorem State.redrawAck_dt (s : State) : (s.redrawAck).dt = s.dt := rfl
@[simp] theorem State.redrawAck_st (s : State) : (s.redrawAck).st = s.st := rfl
@[simp] theorem State.redrawAck_fb (s : State) : (s.redrawAck).fb = s.fb := rfl
@[simp] theorem State.redrawAck_key (s : State) : (s.redrawAck).key = s.key := rfl
@[simp] theorem State.redrawAck_redraw (s : State) : (s.redrawAck).redraw = false := rfl
@[simp] theorem State.redrawAck_mem (s : State) : (s.redrawAck).mem = s.mem := rfl
@[simp] theorem State.redrawAck_halted (s : State) : (s.redrawAck).halted = s.halted := rfl
@[simp] theorem State.redrawAck_fault (s : State) : (s.redrawAck).fault = s.fault := rfl
@[simp] theorem State.redrawAck_unkSeen (s : State) : (s.redrawAck).unkSeen = s.unkSeen := rfl
@[simp] theorem State.redrawAck_unkWord (s : State) : (s.redrawAck).unkWord = s.unkWord := rfl
@[simp] theorem State.redrawAck_unkPc (s : State) : (s.redrawAck).unkPc = s.unkPc := rfl
@[simp] theorem State.redrawAck_soundEdge (s : State) : (s.redrawAck).soundEdge = s.soundEdge := rfl
@[simp] theorem State.redrawAck_unknownOut (s : State) : (s.redrawAck).unknownOut = s.unknownOut := rfl
@[simp] theorem State.redrawAck_faultOut (s : State) : (s.redrawAck).faultOut = s.faultOut := rfl
@[simp] theorem State.redrawAck_loadResult (s : State) : (s.redrawAck).loadResult = s.loadResult := rfl
@[simp] theorem State.redrawAck_draws (s : State) : (s.redrawAck).draws = s.draws := rfl

/-! ### `raiseFatal` -/

@[simp] theorem raiseFatal_v (k : Fault) (n : Nat) (w : Option Word) (s : State) :
    (raiseFatal k n w s).v = s.v := rfl
@[simp] theorem raiseFatal_i (k : Fault) (n : Nat) (w : Option Word) (s : State) :
    (raiseFatal k n w s).i = s.i := rfl
@[simp] theorem raiseFatal_pc (k : Fault) (n : Nat) (w : Option Word) (s : State) :
    (raiseFatal k n w s).pc = s.pc := rfl
@[simp] theorem raiseFatal_stack (k : Fault) (n : Nat) (w : Option Word) (s : State) :
    (raiseFatal k n w s).stack = s.stack := rfl
@[simp] theorem raiseFatal_sp (k : Fault) (n : Nat) (w : Option Word) (s : State) :
    (raiseFatal k n w s).sp = s.sp := rfl
@[simp] theorem raiseFatal_dt (k : Fault) (n : Nat) (w : Option Word) (s : State) :
    (raiseFatal k n w s).dt = s.dt := rfl
@[simp] theorem raiseFatal_st (k : Fault) (n : Nat) (w : Option Word) (s : State) :
    (raiseFatal k n w s).st = s.st := rfl
@[simp] theorem raiseFatal_fb (k : Fault) (n : Nat) (w : Option Word) (s : State) :
    (raiseFatal k n w s).fb = s.fb := rfl
@[simp] theorem raiseFatal_key (k : Fault) (n : Nat) (w : Option Word) (s : State) :
    (raiseFatal k n w s).key = s.key := rfl
@[simp] theorem raiseFatal_redraw (k : Fault) (n : Nat) (w : Option Word) (s : State) :
    (raiseFatal k n w s).redraw = s.redraw := rfl
@[simp] theorem raiseFatal_mem (k : Fault) (n : Nat) (w : Option Word) (s : State) :
    (raiseFatal k n w s).mem = s.mem := rfl
@[simp] theorem raiseFatal_halted (k : Fault) (n : Nat) (w : Option Word) (s : State) :
    (raiseFatal k n w s).halted = true := rfl
@[simp] theorem raiseFatal_fault (k : Fault) (n : Nat) (w : Option Word) (s : State) :
    (raiseFatal k n w s).fault = some { kind := k, info := n, pc := s.pc, word := w } := rfl
@[simp] theorem raiseFatal_unkSeen (k : Fault) (n : Nat) (w : Option Word) (s : State) :
    (raiseFatal k n w s).unkSeen = s.unkSeen := rfl
@[simp] theorem raiseFatal_unkWord (k : Fault) (n : Nat) (w : Option Word) (s : State) :
    (raiseFatal k n w s).unkWord = s.unkWord := rfl
@[simp] theorem raiseFatal_unkPc (k : Fault) (n : Nat) (w : Option Word) (s : State) :
    (raiseFatal k n w s).unkPc = s.unkPc := rfl
@[simp] theorem raiseFatal_soundEdge (k : Fault) (n : Nat) (w : Option Word) (s : State) :
    (raiseFatal k n w s).soundEdge = s.soundEdge := rfl
@[simp] theorem raiseFatal_unknownOut (k : Fault) (n : Nat) (w : Option Word) (s : State) :
    (raiseFatal k n w s).unknownOut = s.unknownOut := rfl
@[simp] theorem raiseFatal_faultOut (k : Fault) (n : Nat) (w : Option Word) (s : State) :
    (raiseFatal k n w s).faultOut = some { kind := k, info := n, pc := s.pc, word := w } := rfl
@[simp] theorem raiseFatal_loadResult (k : Fault) (n : Nat) (w : Option Word) (s : State) :
    (raiseFatal k n w s).loadResult = s.loadResult := rfl
@[simp] theorem raiseFatal_draws (k : Fault) (n : Nat) (w : Option Word) (s : State) :
    (raiseFatal k n w s).draws = s.draws := rfl

/-! ### Updates that are another update -/

@[simp] theorem State.setFlag_eq (s : State) (f : Bool) : s.setFlag f = s.setReg flagReg (flagByte f) := rfl
@[simp] theorem State.advance_eq (s : State) : s.advance = s.jump (s.pc + 2) := rfl
@[simp] theorem State.skipIf_eq (s : State) (c : Bool) : s.skipIf c = s.jump (if c then s.pc + 4 else s.pc + 2) := rfl
@[simp] theorem State.bumpI_eq (s : State) (x : Nibble) : s.bumpI x = s.setI (BitVec.ofNat 16 (s.base + x.val + 1)) := rfl
@[simp] theorem State.base_eq (s : State) : s.base = s.i.toNat := rfl
@[simp] theorem State.nextRandom_fst (s : State) : s.nextRandom.1 = Config.randomByte s.draws := rfl

/-! ### Reading a register after an update -/

@[simp] theorem State.reg_setI (s : State) (w : Word) (y : Nibble) : (s.setI w).reg y = s.reg y := rfl
@[simp] theorem State.reg_setMem (s : State) (m : Memory) (y : Nibble) : (s.setMem m).reg y = s.reg y := rfl
@[simp] theorem State.reg_setDt (s : State) (b : Byte) (y : Nibble) : (s.setDt b).reg y = s.reg y := rfl
@[simp] theorem State.reg_setSt (s : State) (b : Byte) (y : Nibble) : (s.setSt b).reg y = s.reg y := rfl
@[simp] theorem State.reg_display (s : State) (fb : FrameBuffer) (y : Nibble) : (s.display fb).reg y = s.reg y := rfl
@[simp] theorem State.reg_jump (s : State) (w : Word) (y : Nibble) : (s.jump w).reg y = s.reg y := rfl
@[simp] theorem State.reg_push (s : State) (w : Word) (h : s.sp.val < 16) (y : Nibble) : (s.push w h).reg y = s.reg y := rfl
@[simp] theorem State.reg_pop (s : State) (y : Nibble) : (s.pop).reg y = s.reg y := rfl
@[simp] theorem State.reg_clearOutputs (s : State) (y : Nibble) : (s.clearOutputs).reg y = s.reg y := rfl
@[simp] theorem State.reg_executeUnknown (s : State) (w : Word) (y : Nibble) : (s.executeUnknown w).reg y = s.reg y := rfl
@[simp] theorem State.reg_tick (s : State) (y : Nibble) : (s.tick).reg y = s.reg y := rfl
@[simp] theorem State.reg_nextRandom (s : State) (y : Nibble) : (s.nextRandom.2).reg y = s.reg y := rfl
@[simp] theorem State.reg_setKey (s : State) (k : Nibble) (d : Bool) (y : Nibble) : (s.setKey k d).reg y = s.reg y := rfl
@[simp] theorem State.reg_redrawAck (s : State) (y : Nibble) : (s.redrawAck).reg y = s.reg y := rfl
@[simp] theorem reg_raiseFatal (k : Fault) (n : Nat) (w : Option Word) (s : State) (y : Nibble) :
    (raiseFatal k n w s).reg y = s.reg y := rfl

/-- A register reads what was last written to it, and every other register is as before. -/
@[simp] theorem State.reg_setReg (s : State) (x y : Nibble) (b : Byte) :
    (s.setReg x b).reg y = if y = x then b else s.reg y := by
  simp only [State.reg, State.setReg, Vector.getElem_set, Fin.ext_iff, eq_comm]

/-- A register after a block load: its byte of the block when it is among V0 to Vx. -/
@[simp] theorem State.reg_loadRegs (s : State) (x y : Nibble) :
    (s.loadRegs x).reg y = if y.val ≤ x.val then s.mem.read (s.i.toNat + y.val) else s.reg y := by
  simp [State.reg]

/-- A key reads what was last set, and every other key is as before. -/
@[simp] theorem State.keyDown_setKey (s : State) (k j : Nibble) (d : Bool) :
    (s.setKey k d).keyDown j = if j = k then d else s.keyDown j := by
  simp only [State.keyDown, State.setKey, Vector.getElem_set, Fin.ext_iff, eq_comm]

/-- A stack slot after a push. -/
theorem State.stack_push (s : State) (w : Word) (h : s.sp.val < 16) (k : Fin 16) :
    (s.push w h).stack[k.val] = if k.val = s.sp.val then w else s.stack[k.val] := by
  simp only [State.push_stack, Vector.getElem_set, eq_comm]

end Sys2Proof.Machine
end

