-- ==== Sys2Proof/Laws/Ops.lean ====
section
/-! SUPPORT. One lemma for each shared operation that says what it can do: flags, timers, fatal faults, block accesses, the
fetch, the key search, the framebuffer and sprites, and the step. -/

namespace Sys2Proof.Machine

/-! ### Flags and timers -/

@[simp] theorem flagByte_toNat (b : Bool) : (flagByte b).toNat = if b then 1 else 0 := by cases b <;> rfl

/-- A flag byte is 1 exactly when the flag is set. -/
theorem flagByte_eq_one (b : Bool) : flagByte b = 1#8 ↔ b = true := by cases b <;> decide

/-- A flag byte is 0 or 1. -/
theorem flagByte_zero_or_one (b : Bool) : flagByte b = 0#8 ∨ flagByte b = 1#8 := by cases b <;> decide

/-- One tick takes a timer down by one, clamped at 0 (R257). -/
@[simp] theorem toNat_tickDown (t : Byte) : (tickDown t).toNat = t.toNat - 1 := by
  have := t.isLt
  by_cases h : t = 0#8
  · simp [tickDown, h]
  · have h0 : t.toNat ≠ 0 := fun e => h (BitVec.eq_of_toNat_eq (by simpa using e))
    rw [tickDown, if_neg h, BitVec.toNat_sub]
    simp
    omega

/-! ### Fatal faults and block accesses -/

/-- Raising a fatal fault is the fault state of `FatalAt` (R241, R249, R251). -/
theorem fatalAt_raiseFatal (k : Fault) (n : Nat) (w : Option Word) (s : State) :
    FatalAt k (FaultRecord.code ⟨k, n, s.pc, w⟩) n w s (raiseFatal k n w s) :=
  ⟨rfl, _, rfl, rfl, rfl, rfl, rfl, rfl⟩

/-- A block access completes exactly when its range is in the space, else it raises MemOutOfBounds (R66, R243). -/
theorem onBlock_eq (ins : Instr) (len : Nat) (f : State → State) (s : State) :
    onBlock ins len f s =
      if len = 0 ∨ s.i.toNat + len ≤ 4096 then .next (f s)
      else .next (raiseFatal .memOutOfBounds (max s.i.toNat 4096) (some (encode ins)) s) := by
  unfold onBlock
  simp only [blockFits_iff]
  rfl

/-! ### The fetch -/

/-- In bounds the fetch gives the two bytes at pc, high byte first (R112). -/
theorem State.fetch_eq_some {s : State} (h : s.pc.toNat + 1 < 4096) :
    s.fetch = some (wordOfBytes (s.mem.read s.pc.toNat) (s.mem.read (s.pc.toNat + 1))) := by
  rw [State.fetch, if_neg (by simp only [Config.memSize]; omega)]

/-- Out of bounds it gives none (R113). -/
theorem State.fetch_eq_none {s : State} (h : 4096 ≤ s.pc.toNat + 1) : s.fetch = none := by
  rw [State.fetch, if_pos (by simp only [Config.memSize]; omega)]

/-- A fetched word was in bounds. -/
theorem State.pc_lt_of_fetch {s : State} {w : Word} (h : s.fetch = some w) : s.pc.toNat + 1 < 4096 := by
  by_contra hn
  rw [State.fetch_eq_none (by omega)] at h
  cases h

/-- The fetch reads only pc and memory. -/
theorem State.fetch_congr {s t : State} (hp : t.pc = s.pc) (hm : ∀ a, t.mem.read a = s.mem.read a) :
    t.fetch = s.fetch := by
  simp only [State.fetch, hp, hm]

/-! ### The key search -/

/-- What the key search finds below `n` (R222, D13): nothing when no key is down, else the highest down key. -/
theorem highestDown_spec (key : Vector Bool 16) (n : Nat) (h : n ≤ 16) :
    (highestDown key n h = none ∧ ∀ k : Nibble, k.val < n → key[k.val] = false) ∨
    ∃ k : Nibble, highestDown key n h = some k ∧ k.val < n ∧ key[k.val] = true ∧
      ∀ j : Nibble, k < j → j.val < n → key[j.val] = false := by
  induction n with
  | zero => exact .inl ⟨rfl, fun k hk => by omega⟩
  | succ n ih =>
    rw [highestDown]
    by_cases hk : key[n] = true
    · refine .inr ⟨⟨n, h⟩, by rw [if_pos hk], Nat.lt_succ_self n, hk, fun j hj hn => ?_⟩
      have : n < j.val := hj
      omega
    · rw [if_neg hk]
      have hf : key[n] = false := by simpa using hk
      rcases ih (by omega) with ⟨he, ha⟩ | ⟨k, he, hkn, hd, ha⟩
      · refine .inl ⟨he, fun k hk => ?_⟩
        by_cases hkn : k.val = n
        · simp only [hkn, hf]
        · exact ha k (by omega)
      · refine .inr ⟨k, he, by omega, hd, fun j hj hn => ?_⟩
        by_cases hjn : j.val = n
        · simp only [hjn, hf]
        · exact ha j hj (by omega)

/-! ### The framebuffer -/

/-- Toggling a cell flips it and no other (R202). -/
@[simp] theorem FrameBuffer.pixel_toggle (fb : FrameBuffer) (k j : CellIdx) :
    FrameBuffer.pixel (FrameBuffer.toggle fb k) j = (FrameBuffer.pixel fb j ^^ decide (j = k)) := by
  unfold FrameBuffer.pixel FrameBuffer.toggle
  rw [Vector.getElem_set]
  by_cases h : k.val / 64 = j.val / 64
  · rw [if_pos h]
    have e : j = k ↔ k.val % 64 = j.val % 64 := by rw [Fin.ext_iff]; omega
    have : k.val % 64 < 64 := Nat.mod_lt _ (by decide)
    simp [BitVec.getLsbD_twoPow, e, h, this]
  · rw [if_neg h]
    have : j ≠ k := by rw [Ne, Fin.ext_iff]; omega
    simp [this]

/-- Every cell of the cleared framebuffer is 0 (R201). -/
@[simp] theorem FrameBuffer.pixel_clear (k : CellIdx) : FrameBuffer.pixel FrameBuffer.clear k = false := by
  simp [FrameBuffer.pixel, FrameBuffer.clear]

/-- Framebuffers with the same cells are equal. -/
theorem FrameBuffer.ext_pixel {f g : FrameBuffer} (h : ∀ k, FrameBuffer.pixel f k = FrameBuffer.pixel g k) : f = g := by
  refine Vector.ext fun r hr => BitVec.eq_of_getLsbD_eq fun c hc => ?_
  have := h ⟨r * 64 + c, by omega⟩
  have e1 : (r * 64 + c) / 64 = r := by omega
  have e2 : (r * 64 + c) % 64 = c := by omega
  simpa only [FrameBuffer.pixel, e1, e2] using this

/-! ### Sprites -/

theorem mem_rowCells {vx vy : Byte} {r : Nat} {row : Byte} {k : CellIdx} :
    k ∈ rowCells vx vy r row ↔
      ∃ c, c < 8 ∧ row.getLsbD (7 - c) = true ∧ k.val = (vx.toNat + c + (vy.toNat + r) * 64) % 2048 := by
  simp only [rowCells, List.mem_map, List.mem_filter, List.mem_range, cellAt, Config.fbWidth, Fin.ext_iff, Fin.val_ofNat]
  constructor
  · rintro ⟨c, ⟨hc, hb⟩, hk⟩
    exact ⟨c, hc, hb, hk.symm⟩
  · rintro ⟨c, hc, hb, hk⟩
    exact ⟨c, ⟨hc, hb⟩, hk.symm⟩

theorem mem_spriteCells {vx vy : Byte} {r : Nat} {rows : List Byte} {k : CellIdx} :
    k ∈ spriteCells vx vy r rows ↔ ∃ j row, rows[j]? = some row ∧ k ∈ rowCells vx vy (r + j) row := by
  induction rows generalizing r with
  | nil => simp [spriteCells]
  | cons b bs ih =>
    simp only [spriteCells, List.mem_append, ih]
    constructor
    · rintro (h | ⟨j, row, hj, hk⟩)
      · exact ⟨0, b, by simp, by simpa using h⟩
      · exact ⟨j + 1, row, by simpa using hj, by rwa [show r + (j + 1) = r + 1 + j by omega]⟩
    · rintro ⟨j, row, hj, hk⟩
      cases j with
      | zero => simp only [List.getElem?_cons_zero, Option.some.injEq] at hj; subst hj; exact .inl (by simpa using hk)
      | succ j => exact .inr ⟨j, row, by simpa using hj, by rwa [show r + 1 + j = r + (j + 1) by omega]⟩

/-- The cells a sprite draws are the targets of its set bits (R202). -/
theorem mem_sprite {s : State} {x y : Nibble} {n : Nat} {k : CellIdx} : k ∈ s.sprite x y n ↔ Targets s x y n k := by
  simp only [State.sprite, mem_spriteCells, mem_rowCells, Targets, State.base_eq, Nat.zero_add]
  constructor
  · rintro ⟨r, row, hr, c, hc, hb, hk⟩
    have hrn : r < n := by
      have := (List.getElem?_eq_some_iff.1 hr).1
      simpa using this
    rw [Memory.getElem?_readBlock _ _ hrn, Option.some.injEq] at hr
    exact ⟨r, hrn, c, hc, hr ▸ hb, hk⟩
  · rintro ⟨r, hrn, c, hc, hb, hk⟩
    exact ⟨r, _, Memory.getElem?_readBlock _ _ hrn, c, hc, hb, hk⟩

/-- Distinct set bits of one sprite of at most 15 rows have distinct cells (R203). -/
theorem nodup_spriteCells (vx vy : Byte) (r : Nat) (rows : List Byte) (h : rows.length ≤ 15) :
    (spriteCells vx vy r rows).Nodup := by
  induction rows generalizing r with
  | nil => exact List.nodup_nil
  | cons b bs ih =>
    simp only [List.length_cons] at h
    refine List.nodup_append.2 ⟨?_, ih (r + 1) (by omega), ?_⟩
    · refine (List.nodup_range.filter _).map_on fun c hc d hd e => ?_
      have hc := List.mem_range.1 (List.mem_filter.1 hc).1
      have hd := List.mem_range.1 (List.mem_filter.1 hd).1
      simp only [cellAt, Config.fbWidth, Fin.ext_iff, Fin.val_ofNat] at e
      omega
    · rintro k hk l hl rfl
      obtain ⟨c, hc, -, e⟩ := mem_rowCells.1 hk
      obtain ⟨j, row, hj, hl⟩ := mem_spriteCells.1 hl
      obtain ⟨d, hd, -, e'⟩ := mem_rowCells.1 hl
      have := (List.getElem?_eq_some_iff.1 hj).1
      omega

/-- Drawing distinct cells toggles exactly them, and collides exactly when one of them was set (R202, R203). -/
theorem drawCells_spec (fb : FrameBuffer) (cells : List CellIdx) (h : cells.Nodup) :
    (∀ k, FrameBuffer.pixel (drawCells fb cells).1 k = (FrameBuffer.pixel fb k ^^ decide (k ∈ cells))) ∧
    ((drawCells fb cells).2 = true ↔ ∃ k ∈ cells, FrameBuffer.pixel fb k = true) := by
  have main (cells : List CellIdx) (fb : FrameBuffer) (b : Bool) (h : cells.Nodup) :
      (∀ k, FrameBuffer.pixel (cells.foldl drawPixel (fb, b)).1 k = (FrameBuffer.pixel fb k ^^ decide (k ∈ cells))) ∧
      ((cells.foldl drawPixel (fb, b)).2 = true ↔ b = true ∨ ∃ k ∈ cells, FrameBuffer.pixel fb k = true) := by
    induction cells generalizing fb b with
    | nil => simp
    | cons c cs ih =>
      obtain ⟨hc, hcs⟩ := List.nodup_cons.1 h
      rw [List.foldl_cons]
      obtain ⟨h1, h2⟩ := ih (FrameBuffer.toggle fb c) (b || FrameBuffer.pixel fb c) hcs
      refine ⟨fun k => ?_, ?_⟩
      · refine (h1 k).trans ?_
        rw [FrameBuffer.pixel_toggle]
        by_cases hk : k = c
        · subst hk; simp [hc]
        · simp [hk]
      · refine h2.trans ?_
        simp only [FrameBuffer.pixel_toggle, Bool.or_eq_true, List.mem_cons, exists_eq_or_imp, or_assoc]
        refine or_congr_right (or_congr_right (exists_congr fun k => and_congr_right fun hk => ?_))
        have : k ≠ c := fun e => hc (e ▸ hk)
        simp [this]
  simpa [drawCells] using main cells fb false h

/-! ### The step -/

/-- Everything a step can do (R111): a halted core clears its outputs; a fetch out of bounds halts; an unknown opcode is
recorded and the tick follows; an instruction executes and the tick follows unless it halted the core. -/
theorem step_cases (s : State) :
    (s.halted = true ∧ step s = .next s.clearOutputs) ∨
    (s.halted = false ∧ s.fetch = none ∧
      step s = .next (raiseFatal .fetchOutOfBounds s.pc.toNat none s.clearOutputs)) ∨
    (∃ w u, s.halted = false ∧ s.fetch = some w ∧ decode w = .unknown u ∧
      step s = .next (s.clearOutputs.executeUnknown w).tick) ∨
    ∃ w i, s.halted = false ∧ s.fetch = some w ∧ decode w = .instr i ∧ step s = finishStep (exec i s.clearOutputs) := by
  unfold step
  cases hh : s.halted with
  | true => exact .inl ⟨rfl, by simp⟩
  | false =>
    refine .inr ?_
    cases hf : s.fetch with
    | none => exact .inl ⟨rfl, rfl, by simp⟩
    | some w =>
      refine .inr ?_
      cases hd : decode w with
      | unknown u => exact .inl ⟨w, u, rfl, rfl, hd, by simp [finishStep, hd, hh]⟩
      | instr i => exact .inr ⟨w, i, rfl, rfl, hd, by simp [hd]⟩

/-! ### The end of a run -/

/-- The default next pc is another pc. -/
theorem State.advance_pc_ne (s : State) : s.advance.pc ≠ s.pc := by simp

/-- A skip, taken or not, leaves another pc. -/
theorem State.skipIf_pc_ne (s : State) (c : Bool) : (s.skipIf c).pc ≠ s.pc := by cases c <;> simp [State.skipIf]

/-- A halted core has ended its run. -/
@[simp] theorem State.runEnd_of_halted {s : State} (h : s.halted = true) : s.runEnd = some .fatal := by
  simp [State.runEnd, h]

/-- Everything an ended state can be (R125), with the word it would fetch. -/
theorem State.runEnd_cases {s : State} {e : RunEnd} (h : s.runEnd = some e) :
    (e = .fatal ∧ s.halted = true) ∨
    (e = .selfJump ∧ s.halted = false ∧ ∃ w nnn, s.fetch = some w ∧
      ((decode w = .instr (.jp nnn) ∧ zext16 nnn = s.pc) ∨
        decode w = .instr (.jpV0 nnn) ∧ zext16 nnn + zext16 (s.reg 0) = s.pc)) ∨
    (e = .stalled ∧ s.halted = false ∧ ∃ w x, s.fetch = some w ∧ decode w = .instr (.ldK x) ∧
      ∀ k, s.keyDown k = false) := by
  cases hh : s.halted with
  | true => rw [State.runEnd_of_halted hh] at h; exact .inl ⟨(Option.some.inj h).symm, rfl⟩
  | false =>
    refine .inr ?_
    simp only [State.runEnd, hh] at h
    cases hf : s.fetch with
    | none => simp [hf] at h
    | some w =>
      simp only [hf, Option.map_some] at h
      split at h
      · next hc => cases hc
      · split at h
        · next hd =>
          split at h <;> cases h
          exact .inl ⟨rfl, rfl, w, _, rfl, .inl ⟨Option.some.inj hd, ‹_›⟩⟩
        · next hd =>
          split at h <;> cases h
          exact .inl ⟨rfl, rfl, w, _, rfl, .inr ⟨Option.some.inj hd, ‹_›⟩⟩
        · next hd =>
          split at h <;> cases h
          exact .inr ⟨rfl, rfl, w, _, rfl, Option.some.inj hd, ‹_›⟩
        · cases h

/-- Whether a run has ended is read off halted, pc, V0, memory and the keys alone. -/
theorem State.runEnd_congr {s t : State} (hh : t.halted = s.halted) (hp : t.pc = s.pc) (hv : t.reg 0 = s.reg 0)
    (hk : t.key = s.key) (hm : ∀ a, t.mem.read a = s.mem.read a) : t.runEnd = s.runEnd := by
  have hd : t.keyDown = s.keyDown := funext fun k => by simp only [State.keyDown, hk]
  rw [State.runEnd, State.fetch_congr hp hm, hh, hp, hv, hd, State.runEnd]

end Sys2Proof.Machine
end

