-- ==== Sys2Proof/Laws/PerInstr.lean ====
section
/-! SUPPORT. Facts about every instruction as syntax, one lemma per constructor. -/

namespace Sys2Proof.Laws

/-- The fields of a word of format NNN. -/
def HasNNN (w : Word) (g : Nat) (nnn : Addr12) : Prop := fieldG w = g ∧ fieldNNN w = nnn

/-- The fields of a word of format XNN, or X with its fixed low byte. -/
def HasXNN (w : Word) (g : Nat) (x : Nibble) (nn : Nat) : Prop := fieldG w = g ∧ fieldX w = x ∧ slice w 7 0 = nn

/-- The fields of a word of format XYN, or XY with its fixed low nibble. -/
def HasXYN (w : Word) (g : Nat) (x y : Nibble) (n : Nat) : Prop :=
  fieldG w = g ∧ fieldX w = x ∧ fieldY w = y ∧ fieldN w = n

/-- The encoding of an instruction holds each of its fields in the place of 30_encoding.md R81 and R82, and the fixed
nibbles of its pattern (R87 to R92). -/
def EncodedFields.Statement : Instr → Prop
  | .cls => encode .cls = 0x00E0
  | .ret => encode .ret = 0x00EE
  | .jp nnn => HasNNN (encode (.jp nnn)) 0x1 nnn
  | .call nnn => HasNNN (encode (.call nnn)) 0x2 nnn
  | .seImm x nn => HasXNN (encode (.seImm x nn)) 0x3 x nn.toNat
  | .sneImm x nn => HasXNN (encode (.sneImm x nn)) 0x4 x nn.toNat
  | .seReg x y => HasXYN (encode (.seReg x y)) 0x5 x y 0x0
  | .ldImm x nn => HasXNN (encode (.ldImm x nn)) 0x6 x nn.toNat
  | .addImm x nn => HasXNN (encode (.addImm x nn)) 0x7 x nn.toNat
  | .ldReg x y => HasXYN (encode (.ldReg x y)) 0x8 x y 0x0
  | .or x y => HasXYN (encode (.or x y)) 0x8 x y 0x1
  | .and x y => HasXYN (encode (.and x y)) 0x8 x y 0x2
  | .xor x y => HasXYN (encode (.xor x y)) 0x8 x y 0x3
  | .addReg x y => HasXYN (encode (.addReg x y)) 0x8 x y 0x4
  | .sub x y => HasXYN (encode (.sub x y)) 0x8 x y 0x5
  | .shr x y => HasXYN (encode (.shr x y)) 0x8 x y 0x6
  | .subn x y => HasXYN (encode (.subn x y)) 0x8 x y 0x7
  | .shl x y => HasXYN (encode (.shl x y)) 0x8 x y 0xE
  | .sneReg x y => HasXYN (encode (.sneReg x y)) 0x9 x y 0x0
  | .ldI nnn => HasNNN (encode (.ldI nnn)) 0xA nnn
  | .jpV0 nnn => HasNNN (encode (.jpV0 nnn)) 0xB nnn
  | .rnd x nn => HasXNN (encode (.rnd x nn)) 0xC x nn.toNat
  | .drw x y n => Instr.wf (.drw x y n) = true → HasXYN (encode (.drw x y n)) 0xD x y n
  | .skp x => HasXNN (encode (.skp x)) 0xE x 0x9E
  | .sknp x => HasXNN (encode (.sknp x)) 0xE x 0xA1
  | .ldVxDt x => HasXNN (encode (.ldVxDt x)) 0xF x 0x07
  | .ldK x => HasXNN (encode (.ldK x)) 0xF x 0x0A
  | .ldDtVx x => HasXNN (encode (.ldDtVx x)) 0xF x 0x15
  | .ldStVx x => HasXNN (encode (.ldStVx x)) 0xF x 0x18
  | .addI x => HasXNN (encode (.addI x)) 0xF x 0x1E
  | .ldF x => HasXNN (encode (.ldF x)) 0xF x 0x29
  | .ldB x => HasXNN (encode (.ldB x)) 0xF x 0x33
  | .ldMemStore x => HasXNN (encode (.ldMemStore x)) 0xF x 0x55
  | .ldMemLoad x => HasXNN (encode (.ldMemLoad x)) 0xF x 0x65

namespace EncodedFields

theorem cls : Statement .cls := rfl
theorem ret : Statement .ret := rfl
theorem jp (nnn : Addr12) : Statement (.jp nnn) := fields_formatNNN nnn (by decide)
theorem call (nnn : Addr12) : Statement (.call nnn) := fields_formatNNN nnn (by decide)
theorem seImm (x : Nibble) (nn : Byte) : Statement (.seImm x nn) := fields_formatXNN x (by decide) nn.isLt
theorem sneImm (x : Nibble) (nn : Byte) : Statement (.sneImm x nn) := fields_formatXNN x (by decide) nn.isLt
theorem seReg (x y : Nibble) : Statement (.seReg x y) := fields_nibbles x y (by decide) (by decide)
theorem ldImm (x : Nibble) (nn : Byte) : Statement (.ldImm x nn) := fields_formatXNN x (by decide) nn.isLt
theorem addImm (x : Nibble) (nn : Byte) : Statement (.addImm x nn) := fields_formatXNN x (by decide) nn.isLt
theorem ldReg (x y : Nibble) : Statement (.ldReg x y) := fields_nibbles x y (by decide) (by decide)
theorem or (x y : Nibble) : Statement (.or x y) := fields_nibbles x y (by decide) (by decide)
theorem and (x y : Nibble) : Statement (.and x y) := fields_nibbles x y (by decide) (by decide)
theorem xor (x y : Nibble) : Statement (.xor x y) := fields_nibbles x y (by decide) (by decide)
theorem addReg (x y : Nibble) : Statement (.addReg x y) := fields_nibbles x y (by decide) (by decide)
theorem sub (x y : Nibble) : Statement (.sub x y) := fields_nibbles x y (by decide) (by decide)
theorem shr (x y : Nibble) : Statement (.shr x y) := fields_nibbles x y (by decide) (by decide)
theorem subn (x y : Nibble) : Statement (.subn x y) := fields_nibbles x y (by decide) (by decide)
theorem shl (x y : Nibble) : Statement (.shl x y) := fields_nibbles x y (by decide) (by decide)
theorem sneReg (x y : Nibble) : Statement (.sneReg x y) := fields_nibbles x y (by decide) (by decide)
theorem ldI (nnn : Addr12) : Statement (.ldI nnn) := fields_formatNNN nnn (by decide)
theorem jpV0 (nnn : Addr12) : Statement (.jpV0 nnn) := fields_formatNNN nnn (by decide)
theorem rnd (x : Nibble) (nn : Byte) : Statement (.rnd x nn) := fields_formatXNN x (by decide) nn.isLt
theorem drw (x y : Nibble) (n : Nat) : Statement (.drw x y n) := fun h => fields_nibbles x y (by decide) (of_decide_eq_true h)
theorem skp (x : Nibble) : Statement (.skp x) := fields_formatXNN x (by decide) (by decide)
theorem sknp (x : Nibble) : Statement (.sknp x) := fields_formatXNN x (by decide) (by decide)
theorem ldVxDt (x : Nibble) : Statement (.ldVxDt x) := fields_formatXNN x (by decide) (by decide)
theorem ldK (x : Nibble) : Statement (.ldK x) := fields_formatXNN x (by decide) (by decide)
theorem ldDtVx (x : Nibble) : Statement (.ldDtVx x) := fields_formatXNN x (by decide) (by decide)
theorem ldStVx (x : Nibble) : Statement (.ldStVx x) := fields_formatXNN x (by decide) (by decide)
theorem addI (x : Nibble) : Statement (.addI x) := fields_formatXNN x (by decide) (by decide)
theorem ldF (x : Nibble) : Statement (.ldF x) := fields_formatXNN x (by decide) (by decide)
theorem ldB (x : Nibble) : Statement (.ldB x) := fields_formatXNN x (by decide) (by decide)
theorem ldMemStore (x : Nibble) : Statement (.ldMemStore x) := fields_formatXNN x (by decide) (by decide)
theorem ldMemLoad (x : Nibble) : Statement (.ldMemLoad x) := fields_formatXNN x (by decide) (by decide)

end EncodedFields

end Sys2Proof.Laws
end

