-- ==== Sys2Proof/Tests/Slice0.lean ====
section
/-! SUPPORT. The tests: ill-formed terms the well-formedness check refuses, the decoding of one written-out word for each
constructor, single steps with the end states of 95_test_vectors.md (its row in each name), the host's moves, and a witness
for every statement that has hypotheses. Every expected value is from spec/. -/

namespace Sys2Proof.Tests

open Sys2Proof.Machine

/-! ## Well-formedness -/

theorem test_wf_refuses_sixteen_rows : (Instr.drw 0 0 16).wf = false := by decide
theorem test_wf_accepts_fifteen_rows : (Instr.drw 0 0 15).wf = true := by decide

/-! ## Decoding: the nibbles of R87 to R92 written out bit by bit -/

theorem test_decode_cls : decode 0b0000_0000_1110_0000 = .instr .cls := by decide
theorem test_decode_ret : decode 0b0000_0000_1110_1110 = .instr .ret := by decide
theorem test_decode_jp : decode 0b0001_0010_0011_0100 = .instr (.jp 0x234) := by decide
theorem test_decode_call : decode 0b0010_1111_0000_0001 = .instr (.call 0xF01) := by decide
theorem test_decode_seImm : decode 0b0011_0011_0001_0010 = .instr (.seImm 3 0x12) := by decide
theorem test_decode_sneImm : decode 0b0100_1010_1000_0001 = .instr (.sneImm 0xA 0x81) := by decide
theorem test_decode_seReg : decode 0b0101_0001_0010_0000 = .instr (.seReg 1 2) := by decide
theorem test_decode_ldImm : decode 0b0110_1111_0000_1010 = .instr (.ldImm 0xF 0x0A) := by decide
theorem test_decode_addImm : decode 0b0111_0010_1111_1110 = .instr (.addImm 2 0xFE) := by decide
theorem test_decode_ldReg : decode 0b1000_0001_0010_0000 = .instr (.ldReg 1 2) := by decide
theorem test_decode_or : decode 0b1000_0001_0010_0001 = .instr (.or 1 2) := by decide
theorem test_decode_and : decode 0b1000_0001_0010_0010 = .instr (.and 1 2) := by decide
theorem test_decode_xor : decode 0b1000_0001_0010_0011 = .instr (.xor 1 2) := by decide
theorem test_decode_addReg : decode 0b1000_0001_0010_0100 = .instr (.addReg 1 2) := by decide
theorem test_decode_sub : decode 0b1000_0001_0010_0101 = .instr (.sub 1 2) := by decide
theorem test_decode_shr : decode 0b1000_0001_0010_0110 = .instr (.shr 1 2) := by decide
theorem test_decode_subn : decode 0b1000_0001_0010_0111 = .instr (.subn 1 2) := by decide
theorem test_decode_shl : decode 0b1000_0001_0010_1110 = .instr (.shl 1 2) := by decide
theorem test_decode_sneReg : decode 0b1001_1110_0111_0000 = .instr (.sneReg 0xE 7) := by decide
theorem test_decode_ldI : decode 0b1010_0010_1111_0000 = .instr (.ldI 0x2F0) := by decide
theorem test_decode_jpV0 : decode 0b1011_1111_1000_0000 = .instr (.jpV0 0xF80) := by decide
theorem test_decode_rnd : decode 0b1100_0011_0000_1111 = .instr (.rnd 3 0x0F) := by decide
theorem test_decode_drw : decode 0b1101_0001_0010_0101 = .instr (.drw 1 2 5) := by decide
theorem test_decode_skp : decode 0b1110_0101_1001_1110 = .instr (.skp 5) := by decide
theorem test_decode_sknp : decode 0b1110_0101_1010_0001 = .instr (.sknp 5) := by decide
theorem test_decode_ldVxDt : decode 0b1111_0011_0000_0111 = .instr (.ldVxDt 3) := by decide
theorem test_decode_ldK : decode 0b1111_0010_0000_1010 = .instr (.ldK 2) := by decide
theorem test_decode_ldDtVx : decode 0b1111_1100_0001_0101 = .instr (.ldDtVx 0xC) := by decide
theorem test_decode_ldStVx : decode 0b1111_1100_0001_1000 = .instr (.ldStVx 0xC) := by decide
theorem test_decode_addI : decode 0b1111_1100_0001_1110 = .instr (.addI 0xC) := by decide
theorem test_decode_ldF : decode 0b1111_1100_0010_1001 = .instr (.ldF 0xC) := by decide
theorem test_decode_ldB : decode 0b1111_1100_0011_0011 = .instr (.ldB 0xC) := by decide
theorem test_decode_ldMemStore : decode 0b1111_1100_0101_0101 = .instr (.ldMemStore 0xC) := by decide
theorem test_decode_ldMemLoad : decode 0b1111_1100_0110_0101 = .instr (.ldMemLoad 0xC) := by decide

/-- R93: words outside the map, one or more of each family. -/
theorem test_decode_unknown :
    decode 0x0123 = .unknown .group0 ∧ decode 0x01E0 = .unknown .group0 ∧ decode 0x5121 = .unknown .group5 ∧
    decode 0x8008 = .unknown .group8 ∧ decode 0x812F = .unknown .group8 ∧ decode 0x9121 = .unknown .group9 ∧
    decode 0xE000 = .unknown .groupE ∧ decode 0xF000 = .unknown .groupF := by decide

/-- R80, R112: two bytes, the high one first; the rest follows. -/
theorem test_decode_bytes : decodeBytes [0x12, 0x34, 0x56] = .instr (.jp 0x234) [0x56] ∧ decodeBytes [0x12] = .truncated ∧
    decodeBytes [0x00, 0x00] = .unknown .group0 0x0000 [] := by decide

theorem test_decode_table_word : decodeTableWord 16 0x00E0 = some .cls ∧ decodeTableWord 16 0xD125 = some (.drw 1 2 5) ∧
    decodeTableWord 16 0x8008 = none := by decide

/-! ## Single steps: the rows of 95_test_vectors.md section 2 -/

/-- The reset state with pc, I and some registers replaced. -/
def place (pc i : Nat) (regs : List (Nibble × Nat)) : State :=
  regs.foldl (fun s p => s.setReg p.1 (BitVec.ofNat 8 p.2))
    { State.reset with pc := BitVec.ofNat 16 pc, i := BitVec.ofNat 16 i }

/-- The state after one step on a word placed at pc. -/
def stepOn (s : State) (w : Nat) : State :=
  match step (s.withFetchWord 16 w) with
  | .next t => t
  | .fault _ => s
  | .refused _ => s

/-- The pc and the registers of a list, as numbers. -/
def view (s : State) (regs : List Nibble) : List Nat := s.pc.toNat :: regs.map fun x => (s.reg x).toNat

/-- What a fatal step leaves: the machine's pc, then the record's code, info, pc and word (none for a fetch fault). -/
def fatalView (s : State) : List Nat :=
  match s.fault with
  | some r => if s.halted then [s.pc.toNat, r.code, r.info, r.pc.toNat] ++ (r.word.map BitVec.toNat).toList else []
  | none => []

/-- Some cells of the framebuffer. -/
def cells (s : State) (ks : List Nat) : List Bool := ks.map fun k => s.fb.pixel (Fin.ofNat 2048 k)

theorem test_jp_odd_target_C2 : (stepOn (place 0x200 0 []) 0x1201).pc = 0x201 := by decide

theorem test_call_last_slot_C5 :
    let t := stepOn { place 0x400 0 [] with sp := 15 } 0x2500
    t.stack[15] = 0x402 ∧ t.sp = 16 ∧ t.pc = 0x500 ∧ t.halted = false := by decide

theorem test_call_overflow_C6 :
    fatalView (stepOn { place 0x200 0 [] with sp := 16 } 0x2300) = [0x200, 3, 16, 0x200, 0x2300] := by
  decide

theorem test_ret_C7 :
    let t := stepOn { place 0x300 0 [] with sp := 1, stack := State.reset.stack.set 0 0x204 } 0x00EE
    t.sp = 0 ∧ t.pc = 0x204 ∧ t.stack[0] = 0x204 := by decide

theorem test_ret_underflow_C8 :
    fatalView (stepOn (place 0x200 0 []) 0x00EE) = [0x200, 4, 0, 0x200, 0x00EE] := by decide

theorem test_seImm_C9_C10 : (stepOn (place 0x200 0 [(3, 0x10)]) 0x3310).pc = 0x204 ∧
    (stepOn (place 0x200 0 [(3, 0x10)]) 0x3311).pc = 0x202 := by decide

theorem test_seImm_past_the_end_C21 : (stepOn (place 0xFFC 0 []) 0x3000).pc = 0x1000 := by decide

theorem test_sneImm_C11_C12 : (stepOn (place 0x200 0 [(3, 0x10)]) 0x4310).pc = 0x202 ∧
    (stepOn (place 0x200 0 [(3, 0x10)]) 0x4311).pc = 0x204 := by decide

theorem test_seReg_C13_C14 : (stepOn (place 0x200 0 [(1, 7), (2, 7)]) 0x5120).pc = 0x204 ∧
    (stepOn (place 0x200 0 [(1, 7), (2, 8)]) 0x5120).pc = 0x202 := by decide

theorem test_sneReg_C16_C18 : (stepOn (place 0x200 0 [(1, 7), (2, 8)]) 0x9120).pc = 0x204 ∧
    (stepOn (place 0x200 0 [(1, 7)]) 0x9110).pc = 0x202 := by decide

theorem test_jpV0_past_the_end_C20 :
    let t := stepOn (place 0x200 0 [(0, 0xFF)]) 0xBF80
    t.pc = 0x107F ∧ fatalView (stepOn t 0) = [0x107F, 1, 0x107F, 0x107F] := by decide

theorem test_ldImm_A1 : view (stepOn (place 0x200 0 []) 0x600A) [0, 0xF] = [0x202, 0x0A, 0] := by decide

theorem test_addImm_A2 : view (stepOn (place 0x200 0 [(2, 0xFF), (0xF, 5)]) 0x7202) [2, 0xF] = [0x202, 1, 5] := by decide

theorem test_ldReg_A4 : view (stepOn (place 0x200 0 [(1, 5)]) 0x8010) [0, 1] = [0x202, 5, 5] := by decide

theorem test_or_A5 :
    view (stepOn (place 0x200 0 [(0, 0x0C), (1, 0x0A), (0xF, 7)]) 0x8011) [0, 1, 0xF] = [0x202, 0x0E, 0x0A, 7] := by decide

theorem test_and_A6 : view (stepOn (place 0x200 0 [(0, 0x0C), (1, 0x0A)]) 0x8012) [0] = [0x202, 8] := by decide

theorem test_xor_A7_A8 : view (stepOn (place 0x200 0 [(0, 0x0C), (1, 0x0A)]) 0x8013) [0] = [0x202, 6] ∧
    view (stepOn (place 0x200 0 [(0, 0x0C)]) 0x8003) [0] = [0x202, 0] := by decide

theorem test_addReg_A9_A12 : view (stepOn (place 0x200 0 [(0, 0x0A), (1, 5)]) 0x8014) [0, 0xF] = [0x202, 0x0F, 0] ∧
    view (stepOn (place 0x200 0 [(0, 0xFF), (1, 0xFF)]) 0x8014) [0, 0xF] = [0x202, 0xFE, 1] := by decide

theorem test_addReg_flag_wins_A14_A15 : view (stepOn (place 0x200 0 [(0xF, 0xFF), (1, 1)]) 0x8F14) [0xF] = [0x202, 1] ∧
    view (stepOn (place 0x200 0 [(0xF, 1), (1, 1)]) 0x8F14) [0xF] = [0x202, 0] := by decide

theorem test_sub_A17_A18 : view (stepOn (place 0x200 0 [(0, 3), (1, 5)]) 0x8015) [0, 0xF] = [0x202, 0xFE, 0] ∧
    view (stepOn (place 0x200 0 [(0, 5), (1, 5)]) 0x8015) [0, 0xF] = [0x202, 0, 1] := by decide

theorem test_subn_A20_A21 : view (stepOn (place 0x200 0 [(0, 3), (1, 5)]) 0x8017) [0, 0xF] = [0x202, 2, 1] ∧
    view (stepOn (place 0x200 0 [(0, 5), (1, 3)]) 0x8017) [0, 0xF] = [0x202, 0xFE, 0] := by decide

theorem test_shr_A23_A26 : view (stepOn (place 0x200 0 [(5, 5), (6, 0xFF)]) 0x8566) [5, 0xF] = [0x202, 2, 1] ∧
    view (stepOn (place 0x200 0 [(0xF, 3)]) 0x8F06) [0xF] = [0x202, 1] := by decide

theorem test_shl_A27_A28 : view (stepOn (place 0x200 0 [(5, 0x81)]) 0x850E) [5, 0xF] = [0x202, 2, 1] ∧
    view (stepOn (place 0x200 0 [(5, 0x40)]) 0x850E) [5, 0xF] = [0x202, 0x80, 0] := by decide

/-- A-30, A-31, A-32: the mask, on the random byte B7. -/
theorem test_rnd_A30_A32 : maskRandom 0xB7 0x0F = 0x07 ∧ maskRandom 0xB7 0x00 = 0x00 ∧ maskRandom 0xB7 0xFF = 0xB7 := by
  decide

/-- The draw is the next byte of the free source. -/
theorem test_rnd_draws : ∃ t, exec (.rnd 3 0x0F) State.reset = .next t ∧
    t.reg 3 = maskRandom (Config.randomByte 0) 0x0F ∧ t.draws = 1 := ⟨_, rfl, rfl, rfl⟩

theorem test_unknown_A33 : view (stepOn (place 0x200 0 [(0, 9)]) 0x8008) [0] = [0x202, 9] := by decide

theorem test_ldI_M1 : (stepOn (place 0x200 0 []) 0xA2F0).i = 0x2F0 := by decide

theorem test_addI_M2_M5 :
    let t := stepOn (place 0x200 0xFFE [(2, 3)]) 0xF21E
    let u := stepOn (place 0x200 0xFFFF [(2, 1)]) 0xF21E
    t.i = 0x1001 ∧ t.reg 0xF = 1 ∧ u.i = 0 ∧ u.reg 0xF = 1 := by decide

theorem test_addI_M3_M6 :
    let t := stepOn (place 0x200 0xFFE [(2, 1)]) 0xF21E
    let u := stepOn (place 0x200 0x300 [(0xF, 5)]) 0xFF1E
    t.i = 0xFFF ∧ t.reg 0xF = 0 ∧ u.i = 0x305 ∧ u.reg 0xF = 0 := by decide

theorem test_ldF_M7_M9 : (stepOn (place 0x200 0 [(1, 0x0A)]) 0xF129).i = 0x032 ∧
    (stepOn (place 0x200 0 [(1, 0xFF)]) 0xF129).i = 0x4FB := by decide

theorem test_ldB_M10 :
    let t := stepOn (place 0x200 0x300 [(4, 0x9C)]) 0xF433
    t.mem.readBlock 0x300 3 = [1, 5, 6] ∧ t.i = 0x300 := by decide

theorem test_ldB_M13_M14 : (stepOn (place 0x200 0xFFD [(4, 7)]) 0xF433).mem.readBlock 0xFFD 3 = [0, 0, 7] ∧
    fatalView (stepOn (place 0x200 0xFFE []) 0xF433) = [0x200, 2, 0x1000, 0x200, 0xF433] := by decide

theorem test_ldMemStore_M15 :
    let t := stepOn (place 0x200 0x400 [(0, 1), (1, 2), (2, 3), (3, 9)]) 0xF255
    t.mem.readBlock 0x400 4 = [1, 2, 3, 0] ∧ t.i = 0x403 := by decide

theorem test_ldMemStore_M17_M18 :
    let t := stepOn (place 0x200 0xFF0 [(0xF, 0xF)]) 0xFF55
    let u := stepOn (place 0x200 0xFF1 [(0xF, 0xF)]) 0xFF55
    t.mem.read 0xFFF = 0xF ∧ t.i = 0x1000 ∧ u.i = 0xFF1 ∧
    fatalView u = [0x200, 2, 0x1000, 0x200, 0xFF55] := by decide

theorem test_ldMemLoad_M19 :
    let t := stepOn ((place 0x200 0x400 [(3, 1)]).setMem [(0x400, 7), (0x401, 8), (0x402, 9), (0x403, 4)]) 0xF265
    view t [0, 1, 2, 3] = [0x202, 7, 8, 9, 1] ∧ t.i = 0x403 := by decide

theorem test_ldMemLoad_M20_M21 :
    let t := stepOn ((place 0x200 0x400 []).setMem [(0x40F, 0x2A)]) 0xFF65
    t.reg 0xF = 0x2A ∧ t.i = 0x410 ∧
    fatalView (stepOn (place 0x200 0x1000 []) 0xF065) = [0x200, 2, 0x1000, 0x200, 0xF065] := by decide

theorem test_cls_S1 :
    let t := stepOn { place 0x200 0 [(0xF, 5)] with fb := Vector.replicate 32 1 } 0x00E0
    t.fb = Vector.replicate 32 0 ∧ t.redraw = true ∧ t.reg 0xF = 5 := by decide

theorem test_drw_S6_S7 :
    let t := stepOn ((place 0x200 0x300 [(1, 0x1F)]).setMem [(0x300, 0x80), (0x301, 0x80)]) 0xD012
    let u := stepOn ((place 0x200 0x300 [(0, 0x3F), (1, 0x1F)]).setMem [(0x300, 0xC0)]) 0xD011
    cells t [1984, 0, 1, 2047] = [true, true, false, false] ∧ cells u [2047, 0, 2046, 1] = [true, true, false, false] := by
  decide

theorem test_drw_S11_S12 :
    let t := stepOn { (place 0x200 0x300 []).setMem [(0x300, 0xC0)] with fb := State.reset.fb.set 0 1 } 0xD011
    let u := stepOn ((place 0x200 0x300 [(0xF, 5)]).setMem [(0x300, 0x80)]) 0xDF11
    cells t [0, 1] = [false, true] ∧ t.reg 0xF = 1 ∧ cells u [5] = [true] ∧ u.reg 0xF = 0 := by decide

theorem test_skp_K1_K5 :
    let s := (place 0x200 0 [(5, 0x0A), (6, 0x10)]).setKey 0xA true
    (stepOn s 0xE59E).pc = 0x204 ∧ (stepOn (s.setKey 0xA false) 0xE59E).pc = 0x202 ∧
    fatalView (stepOn s 0xE69E) = [0x200, 6, 16, 0x200, 0xE69E] := by decide

theorem test_sknp_K3_K4 :
    let s := place 0x200 0 [(5, 0x0A)]
    (stepOn s 0xE5A1).pc = 0x204 ∧ (stepOn (s.setKey 0xA true) 0xE5A1).pc = 0x202 := by decide

theorem test_ldK_stall_K6 :
    let t := stepOn { place 0x200 0 [(2, 0x55)] with dt := 3 } 0xF20A
    view t [2] = [0x200, 0x55] ∧ t.dt = 2 := by decide

theorem test_ldK_highest_K7 : view (stepOn (((place 0x200 0 []).setKey 3 true).setKey 7 true) 0xF20A) [2] = [0x202, 7] := by
  decide

theorem test_ldVxDt_K9 :
    let t := stepOn { place 0x200 0 [] with dt := 0x20 } 0xF307
    t.reg 3 = 0x20 ∧ t.dt = 0x1F := by decide

theorem test_ldDtVx_K10_K11 : (stepOn (place 0x200 0 [(0, 2)]) 0xF015).dt = 1 ∧
    (stepOn { place 0x200 0 [] with dt := 9 } 0xF015).dt = 0 := by decide

theorem test_ldStVx_K12_K13 :
    let t := stepOn (place 0x200 0 [(1, 3)]) 0xF118
    let u := stepOn (place 0x200 0 [(1, 1)]) 0xF118
    t.st = 2 ∧ t.soundEdge = false ∧ u.st = 0 ∧ u.soundEdge = true := by decide

theorem test_ldStVx_K14 :
    let t := stepOn { place 0x200 0 [] with st := 5 } 0xF118
    t.st = 0 ∧ t.soundEdge = false := by decide

theorem test_reset_step_Y1 : step State.reset = .next { State.reset with
    unkSeen := true, unkWord := 0x0000, unkPc := 0x200, unknownOut := some (0x0000, 0x200), pc := 0x202 } := by
  rfl

theorem test_no_tick_on_a_fatal_step_Y8 :
    let t := stepOn { place 0xFFF 0 [] with dt := 1 } 0
    t.dt = 1 ∧ fatalView t = [0xFFF, 1, 0xFFF, 0xFFF] := by decide

/-- R125: the three ends, each with a neighbour that is none. -/
theorem test_run_end :
    let on (s : State) (w : Nat) := (s.withFetchWord 16 w).runEnd
    on (place 0x200 0 []) 0x1200 = some .selfJump ∧ on (place 0x200 0 []) 0x1202 = none ∧
    on (place 0x204 0 [(0, 4)]) 0xB200 = some .selfJump ∧ on (place 0x200 0 []) 0x2200 = none ∧
    on (place 0x200 0 []) 0xF20A = some .stalled ∧ on ((place 0x200 0 []).setKey 0xF true) 0xF20A = none ∧
    on (place 0xFFF 0 []) 0 = none ∧ (stepOn (place 0xFFF 0 []) 0).runEnd = some .fatal := by decide

/-! ## The host's moves -/

theorem test_load_one_word : ((State.reset.load [0x12, 0x34]).mem = [(0x200, 0x12), (0x201, 0x34)]) ∧
    (State.reset.load [0x12, 0x34]).loadResult = some .ok := by decide

/-- Y-10: 3585 bytes do not fit. -/
theorem test_load_too_large_Y10 : (State.reset.load (List.replicate 3585 1)).mem = [] ∧
    (State.reset.load (List.replicate 3585 1)).loadResult = some (.programTooLarge 3585) := by
  unfold State.load
  rw [List.length_replicate]
  exact ⟨rfl, rfl⟩

/-- Y-11: loading nothing succeeds and changes nothing else. -/
theorem test_load_nothing_Y11 : State.reset.load [] = { State.reset with loadResult := some .ok } := by decide

theorem test_redrawAck_and_readPixel :
    let s := { State.reset with redraw := true, fb := State.reset.fb.set 1 1 }
    s.redrawAck.redraw = false ∧ s.readPixel 64 = true ∧ s.readPixel 65 = false := by decide

/-! ## A state for every statement that has hypotheses -/

/-- A state of the invariant whose pc is the last the spec can reach, and whose core is not halted. -/
theorem witness_EveryStepKeepsTheInvariant :
    (∃ t, State.reset.Inv ∧ step State.reset = .next t) ∧
    ∃ t, (place 0x10FE 0 []).Inv ∧ step (place 0x10FE 0 []) = .next t := by
  refine ⟨⟨_, ⟨by decide, by decide, by decide, rfl, ?_⟩, rfl⟩, _, ⟨by decide, by decide, by decide, rfl, ?_⟩, rfl⟩ <;>
    exact fun r h => by cases h

theorem witness_DecodeOfEncodeIsTheInstruction : (Instr.drw 1 2 15).wf = true ∧ (Instr.jp 0xFFF).wf = true := by decide

theorem witness_EncodeOfDecodeIsTheWord : decode 0xD12F = .instr (.drw 1 2 15) := by decide

theorem witness_GroupZeroHoldsOnlyClsAndRet : (0x00E0 : Word).toNat < 0x1000 ∧ (0x00EE : Word).toNat < 0x1000 ∧
    (0x0FFF : Word).toNat < 0x1000 ∧ (0x0FFF : Word) ≠ 0x00E0 ∧ (0x0FFF : Word) ≠ 0x00EE := by decide

theorem witness_UnknownWordsAreTheSixFamilies :
    (0x0FFF : Word).toNat = 0 * 4096 + 15 * 256 + 15 * 16 + 15 ∧ (0x500F : Word).toNat = 5 * 4096 + 0 * 256 + 0 * 16 + 15 ∧
    (0x800D : Word).toNat = 8 * 4096 + 0 * 256 + 0 * 16 + 13 ∧ (0x9001 : Word).toNat = 9 * 4096 + 0 * 256 + 0 * 16 + 1 ∧
    (0xE09F : Word).toNat = 14 * 4096 + 0 * 256 + 9 * 16 + 15 ∧ (0xF066 : Word).toNat = 15 * 4096 + 0 * 256 + 6 * 16 + 6 := by
  decide

theorem witness_FetchCombinesTwoBytesBigEndian :
    (place 0xFFE 0 []).pc.toNat + 1 < 4096 ∧ (place 0x201 0 []).pc.toNat + 1 < 4096 := by decide

/-- The last address that can be fetched from, and the first two that cannot. -/
theorem witness_FetchPastTheEndHaltsTheCore :
    ((place 0xFFE 0 []).halted = false ∧ (place 0xFFE 0 []).pc.toNat ≤ 0xFFE) ∧
    ((place 0xFFF 0 []).halted = false ∧ 4096 ≤ (place 0xFFF 0 []).pc.toNat + 1) ∧
    ((place 0x1000 0 []).halted = false ∧ 4096 ≤ (place 0x1000 0 []).pc.toNat) := by decide

theorem witness_StepRunsTheDecodedInstruction :
    let s := (place 0x200 0 []).withFetchWord 16 0x600A
    s.halted = false ∧ s.fetch = some 0x600A ∧ decode 0x600A = .instr (.ldImm 0 0x0A) ∧
    ∃ u, exec (.ldImm 0 0x0A) s.clearOutputs = .next u := ⟨by decide, by decide, by decide, _, rfl⟩

theorem witness_UnknownOpcodeIsRecordedAndSkipped :
    let s := (place 0xFFE 0 []).withFetchWord 16 0x8008
    s.halted = false ∧ s.fetch = some 0x8008 ∧ decode 0x8008 = .unknown .group8 := by decide

theorem witness_HaltedCoreStaysAsItIs : (stepOn (place 0xFFF 0 []) 0).halted = true := by decide

/-- Each of the three ends, with a step from it. -/
theorem witness_RunEndsWhereStepsOnlyTick :
    let jump := (place 0x200 0 []).withFetchWord 16 0x1200
    let wait := (place 0xFFE 0 []).withFetchWord 16 0xF20A
    let dead := stepOn (place 0xFFF 0 []) 0
    (jump.runEnd = some .selfJump ∧ ∃ t, Steps 1 jump t) ∧ (wait.runEnd = some .stalled ∧ ∃ t, Steps 1 wait t) ∧
    dead.runEnd = some .fatal ∧ ∃ t, Steps 1 dead t :=
  ⟨⟨by decide, _, _, rfl, rfl⟩, ⟨by decide, _, _, rfl, rfl⟩, by decide, _, _, rfl, rfl⟩

theorem witness_FatalStepIsPrecise : ∃ t, (place 0xFFF 0 []).halted = false ∧ step (place 0xFFF 0 []) = .next t ∧
    t.halted = true := ⟨_, rfl, rfl, rfl⟩

/-- A completed step that has just written DT. -/
theorem witness_TimersTickOnceInEveryCompletedStep :
    ∃ t, step ((place 0x200 0 [(0, 2)]).withFetchWord 16 0xF015) = .next t ∧ t.halted = false := ⟨_, rfl, rfl⟩

/-- A step whose tick finds ST = 1, and one that finds 0. -/
theorem witness_SoundEdgeIsTheOneToZeroTick :
    (∃ t, step ((place 0x200 0 [(0, 1)]).withFetchWord 16 0xF018) = .next t ∧ t.soundEdge = true) ∧
    ∃ t, step State.reset = .next t ∧ t.soundEdge = false := ⟨⟨_, rfl, rfl⟩, _, rfl, rfl⟩

/-- Targets at which the next fetch fails. -/
theorem witness_jump_past_the_last_fetch :
    (∃ t, exec (.jp 0xFFF) State.reset = .next t ∧ t.pc.toNat = 0xFFF) ∧
    ∃ t, exec (.jpV0 0xFFF) State.reset = .next t ∧ 0xFFF ≤ t.pc.toNat :=
  ⟨⟨_, rfl, by decide⟩, _, rfl, by decide⟩

theorem witness_CallPushesTheReturnAddress :
    ({ State.reset with sp := 0 }).sp.val < 16 ∧ ({ State.reset with sp := 15 }).sp.val < 16 := by decide

theorem witness_ReturnPopsTheReturnAddress :
    ({ State.reset with sp := 1 }).sp.val = (0 : Fin 16).val + 1 ∧
    ({ State.reset with sp := 16 }).sp.val = (15 : Fin 16).val + 1 := by decide

theorem witness_StackFaultsRecordTheStackPointer :
    ({ State.reset with sp := 16 }).sp.val = 16 ∧ State.reset.sp.val = 0 := by decide

/-- The last slot, and a subroutine that returns at once. -/
theorem witness_CallThenReturnComesBack :
    let s := { State.reset with sp := 15 }
    s.sp.val = (15 : Fin 16).val ∧ ∃ t, exec (.call 0x300) s = .next t ∧ t.sp = t.sp ∧ t.stack[15] = t.stack[15] :=
  ⟨rfl, _, rfl, rfl, rfl⟩

theorem witness_JumpsAndSkipsChangeOnlyPc :
    (Instr.jp 0x300) ∈ [.jp 0x300, .jpV0 0x300, .seImm 1 2, .sneImm 1 2, .seReg 1 2, .sneReg 1 2] ∧
    ∃ t, exec (.jp 0x300) State.reset = .next t := ⟨by decide, _, rfl⟩

theorem witness_RegisterOperationsChangeOnlyTheirRegisters :
    ((Instr.ldImm 1 2) ∈ [.ldImm 1 2, .ldReg 1 2] ∧ ∃ t, exec (.ldImm 1 2) State.reset = .next t) ∧
    (Instr.addReg 1 2) ∈ [.addReg 1 2, .sub 1 2, .shr 1 2, .subn 1 2, .shl 1 2] ∧
    ∃ t, exec (.addReg 1 2) State.reset = .next t := ⟨⟨by decide, _, rfl⟩, by decide, _, rfl⟩

/-- A destination other than VF: the premise of the result clauses of LoadsWriteTheRegister, AddSetsCarryFromSourceValues,
SubtractionsSetNoBorrow, ShiftsMoveTheLostBitToTheFlag and BlockLoadCopiesBytesAndAdvancesI (VF itself: rows A-14, A-26). -/
theorem witness_destination_other_than_VF : (0xE : Nibble) ≠ 0xF := by decide

/-- The highest I whose three bytes fit. -/
theorem witness_BcdStoresThreeDigits : (place 0x200 0xFFD []).mem.wf ∧ (place 0x200 0xFFD []).i.toNat + 2 < 4096 := by decide

/-- The highest I whose sixteen bytes fit, and the next. -/
theorem witness_BlockStoreCopiesRegistersAndAdvancesI :
    ((place 0x200 0xFF0 []).mem.wf ∧ (place 0x200 0xFF0 []).i.toNat + (0xF : Nibble).val < 4096) ∧
    (place 0x200 0xFF1 []).mem.wf ∧ 4096 ≤ (place 0x200 0xFF1 []).i.toNat + (0xF : Nibble).val := by decide

theorem witness_BlockLoadCopiesBytesAndAdvancesI :
    (place 0x200 0xFF0 []).i.toNat + (0xF : Nibble).val < 4096 ∧
    4096 ≤ (place 0x200 0xFF1 []).i.toNat + (0xF : Nibble).val := by decide

theorem witness_IndexAndBlockInstructionsFrame :
    (∃ t, exec (.ldI 0x300) State.reset = .next t) ∧ (place 0x200 0xFF0 []).i.toNat + (0xF : Nibble).val < 4096 ∧
    (∃ t, exec (.ldMemStore 0xF) (place 0x200 0xFF0 []) = .next t) ∧
    ∃ t, exec (.ldMemLoad 0xF) (place 0x200 0xFF0 []) = .next t := ⟨⟨_, rfl⟩, by decide, ⟨_, rfl⟩, _, rfl⟩

/-- Each of the four instructions at the lowest I that is out of bounds for it. -/
theorem witness_OutOfBoundsBlocksHaltWithTheLowestBadAddress :
    ((Instr.drw 0 1 15).wf = true ∧ 15 > 0 ∧ (place 0x200 0xFF2 []).i.toNat + 15 - 1 ≥ 4096) ∧
    (place 0x200 0xFFE []).i.toNat + 2 ≥ 4096 ∧ (place 0x200 0xFF1 []).i.toNat + (0xF : Nibble).val ≥ 4096 := by decide

/-- FX55 at pc = 0x200 stores over the bytes at 0x202 (vector Y-12). -/
theorem witness_StoredBytesAreWhatTheNextFetchReads :
    let s := place 0x200 0x202 [(0, 0x12), (1, 0x34)]
    s.mem.wf ∧ s.i.toNat + (1 : Nibble).val < 4096 ∧ (1 : Nibble).val = (0 : Nibble).val + 1 ∧
    ∃ t, exec (.ldMemStore 1) s = .next t ∧ t.pc.toNat = s.i.toNat + (0 : Nibble).val :=
  ⟨by decide, by decide, by decide, _, rfl, rfl⟩

/-- The empty sprite at any I, and the highest I fifteen rows fit at. -/
theorem witness_DrawTogglesTheTargetedCells :
    ((Instr.drw 0 1 0).wf = true ∧ (0 = 0 ∨ (place 0x200 0xFFFF []).i.toNat + 0 ≤ 4096)) ∧
    (Instr.drw 0 1 15).wf = true ∧ (15 = 0 ∨ (place 0x200 0xFF1 []).i.toNat + 15 ≤ 4096) := by decide

theorem witness_DrawingTwiceRestoresTheFramebuffer :
    (Instr.drw 0xE 0 15).wf = true ∧ (15 = 0 ∨ (place 0x200 0xFF1 []).i.toNat + 15 ≤ 4096) ∧ (0xE : Nibble) ≠ 0xF ∧
    (0 : Nibble) ≠ 0xF := by decide

theorem witness_KeySkipsFollowTheKey : ((place 0x200 0 [(1, 0x0F)]).reg 1).toNat = (15 : Nibble).val ∧
    (State.reset.reg 1).toNat = (0 : Nibble).val := by decide

theorem witness_KeySkipOutOfRangeHalts :
    16 ≤ ((place 0x200 0 [(1, 0x10)]).reg 1).toNat ∧ 16 ≤ ((place 0x200 0 [(1, 0xFF)]).reg 1).toNat := by decide

/-- The top key down, and only key 0 down. -/
theorem witness_AwaitKeyTakesTheHighestDownKey :
    ((State.reset.setKey 0xF true).keyDown 0xF = true ∧
      ∀ j : Nibble, 0xF < j → (State.reset.setKey 0xF true).keyDown j = false) ∧
    (State.reset.setKey 0 true).keyDown 0 = true ∧ ∀ j : Nibble, 0 < j → (State.reset.setKey 0 true).keyDown j = false := by
  decide

theorem witness_AwaitKeyStallsWithoutAKey :
    let s := (place 0x200 0 []).withFetchWord 16 0xF20A
    s.halted = false ∧ s.fetch = some 0xF20A ∧ decode 0xF20A = .instr (.ldK 2) ∧ ∀ k, s.keyDown k = false := by decide

theorem witness_DelayIsReadAndSoundIsWritten : ∃ t, exec (.ldDtVx 3) State.reset = .next t := ⟨_, rfl⟩

/-- The default advance, a taken skip, a return, and a fatal fault. -/
theorem witness_NextPcIsOneOfTheRuledCases :
    (∃ t, exec .cls State.reset = .next t) ∧ (∃ t, exec (.seImm 0 0) State.reset = .next t) ∧
    (∃ t, exec .ret { State.reset with sp := 1 } = .next t) ∧ ∃ t, exec .ret State.reset = .next t :=
  ⟨⟨_, rfl⟩, ⟨_, rfl⟩, ⟨_, rfl⟩, _, rfl⟩

/-- `ret` is none of the writers of memory, the framebuffer, I, DT and ST; `cls` is none of the writers of the stack. -/
theorem witness_EachPartHasItsWriters : (∃ t, exec .ret { State.reset with sp := 1 } = .next t) ∧
    ∃ t, exec .cls State.reset = .next t := ⟨⟨_, rfl⟩, _, rfl⟩

/-- A flag writer whose destination is VF, and an instruction that writes neither. -/
theorem witness_FlagIsWrittenByItsWritersOnly :
    (∃ t, exec (.addReg 0xF 1) State.reset = .next t ∧ t.halted = false) ∧
    ∃ t, exec (.addImm 0xE 1) State.reset = .next t ∧ t.halted = false := ⟨⟨_, rfl, rfl⟩, _, rfl, rfl⟩

/-- A step that changes the framebuffer. -/
theorem witness_StepSetsRedrawWhenTheScreenChanges :
    let s := (place 0x200 0 []).withFetchWord 16 0xD015
    ∃ t, step s = .next t ∧ t.fb ≠ s.fb := ⟨_, rfl, by decide⟩

/-- Two states that differ in slot 1, at sp = 1. -/
theorem witness_StackSlotsAboveSpNeverMatter :
    let s := { State.reset with sp := 1 }
    AgreeBelowSp s { s with stack := State.reset.stack.set 1 0x234 } ∧ ∃ t, step s = .next t :=
  ⟨⟨rfl, by decide⟩, _, rfl⟩

/-- The longest program that fits, and the shortest that does not. -/
theorem witness_LoadCopiesTheWholeProgramOrNothing : State.reset.mem.wf ∧ (List.replicate 3584 (1 : Byte)).length ≤ 3584 ∧
    (List.replicate 3585 (1 : Byte)).length > 3584 :=
  ⟨by decide, by rw [List.length_replicate], by rw [List.length_replicate]; decide⟩

theorem witness_HostMovesChangeOnlyTheirPart : State.reset.Inv :=
  ⟨by decide, by decide, by decide, rfl, fun r h => by cases h⟩

end Sys2Proof.Tests
end

/-! SUPPORT. The rules of `Frame` (00_scope.md R17): a frame holds between a state and itself, and each state operation
keeps it when what the operation writes is listed. The frame of an instruction is then read off its composition. -/

namespace Sys2Proof.Machine

/-! ### What an operation leaves of a part -/

theorem Part.same_refl (p : Part) (s : State) : p.same s s := by
  cases p <;> simp [Part.same]

theorem Part.same_jump (p : Part) (s t : State) (w : Word) : p.same s (t.jump w) ↔ p.same s t := by
  cases p <;> simp [Part.same]

theorem Part.same_setReg (p : Part) (s t : State) (x : Nibble) (b : Byte) :
    p.same s (t.setReg x b) ↔ p.same s t := by
  cases p <;> simp [Part.same]

theorem Part.same_loadRegs (p : Part) (s t : State) (x : Nibble) : p.same s (t.loadRegs x) ↔ p.same s t := by
  cases p <;> simp [Part.same]

theorem Part.same_setI {p : Part} (hp : p ≠ .index) (s t : State) (w : Word) :
    p.same s (t.setI w) ↔ p.same s t := by
  cases p with
  | index => exact absurd rfl hp
  | _ => simp [Part.same]

theorem Part.same_setMem {p : Part} (hp : p ≠ .memory) (s t : State) (m : Memory) :
    p.same s (t.setMem m) ↔ p.same s t := by
  cases p with
  | memory => exact absurd rfl hp
  | _ => simp [Part.same]

/-! ### The rules of a frame -/

section
variable {regs : List Nibble} {parts : List Part} {s t : State}

theorem Frame.refl (s : State) : Frame regs parts s s := ⟨fun _ _ => rfl, fun p _ => p.same_refl s⟩

theorem Frame.jump (h : Frame regs parts s t) (w : Word) : Frame regs parts s (t.jump w) :=
  ⟨h.1, fun p hp => (p.same_jump s t w).2 (h.2 p hp)⟩

theorem Frame.setReg (h : Frame regs parts s t) {x : Nibble} (hx : x ∈ regs) (b : Byte) :
    Frame regs parts s (t.setReg x b) := by
  refine ⟨fun k hk => ?_, fun p hp => (p.same_setReg s t x b).2 (h.2 p hp)⟩
  rw [State.reg_setReg, if_neg (ne_of_mem_of_not_mem hx hk).symm, h.1 k hk]

theorem Frame.loadRegs (h : Frame regs parts s t) {x : Nibble} (hx : ∀ k : Nibble, k.val ≤ x.val → k ∈ regs) :
    Frame regs parts s (t.loadRegs x) := by
  refine ⟨fun k hk => ?_, fun p hp => (p.same_loadRegs s t x).2 (h.2 p hp)⟩
  rw [State.reg_loadRegs, if_neg (mt (hx k) hk), h.1 k hk]

theorem Frame.setI (h : Frame regs parts s t) (hi : .index ∈ parts) (w : Word) : Frame regs parts s (t.setI w) :=
  ⟨h.1, fun p hp => (Part.same_setI (ne_of_mem_of_not_mem hi hp).symm s t w).2 (h.2 p hp)⟩

theorem Frame.setMem (h : Frame regs parts s t) (hm : .memory ∈ parts) (m : Memory) :
    Frame regs parts s (t.setMem m) :=
  ⟨h.1, fun p hp => (Part.same_setMem (ne_of_mem_of_not_mem hm hp).symm s t m).2 (h.2 p hp)⟩

end

/-! ### The shapes of the instructions -/

/-- A jump or a register skip answers the state with a new pc. -/
theorem exec_eq_jump_of_mem {nnn : Addr12} {x y : Nibble} {nn : Byte} {i : Instr} (s : State)
    (hi : i ∈ [.jp nnn, .jpV0 nnn, .seImm x nn, .sneImm x nn, .seReg x y, .sneReg x y]) :
    ∃ w, exec i s = .next (s.jump w) := by
  simp only [List.mem_cons, List.not_mem_nil, or_false] at hi
  obtain rfl | rfl | rfl | rfl | rfl | rfl := hi
  all_goals exact ⟨_, rfl⟩

/-- A register load writes one register. -/
theorem exec_eq_regResult_of_mem {x y : Nibble} {nn : Byte} {i : Instr} (s : State)
    (hi : i ∈ [.ldImm x nn, .ldReg x y]) : ∃ b, exec i s = regResult x b s := by
  simp only [List.mem_cons, List.not_mem_nil, or_false] at hi
  obtain rfl | rfl := hi
  all_goals exact ⟨_, rfl⟩

/-- An operation with a carry, a borrow or a lost bit writes its destination and then the flag (42_alu.md R163). -/
theorem exec_eq_flagResult_of_mem {x y : Nibble} {i : Instr} (s : State)
    (hi : i ∈ [.addReg x y, .sub x y, .shr x y, .subn x y, .shl x y]) : ∃ b f, exec i s = flagResult x b f s := by
  simp only [List.mem_cons, List.not_mem_nil, or_false] at hi
  obtain rfl | rfl | rfl | rfl | rfl := hi
  all_goals exact ⟨_, _, rfl⟩

theorem exec_ldI (nnn : Addr12) (s : State) : exec (.ldI nnn) s = .next (s.setI (zext16 nnn)).advance := rfl

/-- FX55 in bounds (43_index_memory.md R184). -/
theorem exec_ldMemStore_of_lt {x : Nibble} {s : State} (h : s.i.toNat + x.val < 4096) :
    exec (.ldMemStore x) s =
      .next ((s.setMem (s.mem.writeBlock s.base (s.regsUpTo x))).bumpI x).advance := by
  change execLdMemStore x s = _
  rw [execLdMemStore, onBlock_eq, if_pos (.inr h)]

/-- FX65 in bounds (43_index_memory.md R185). -/
theorem exec_ldMemLoad_of_lt {x : Nibble} {s : State} (h : s.i.toNat + x.val < 4096) :
    exec (.ldMemLoad x) s = .next ((s.loadRegs x).bumpI x).advance := by
  change execLdMemLoad x s = _
  rw [execLdMemLoad, onBlock_eq, if_pos (.inr h)]

@[simp] theorem State.length_regsUpTo (s : State) (x : Nibble) : (s.regsUpTo x).length = x.val + 1 := by
  rw [State.regsUpTo, List.length_take, Vector.length_toList]
  omega

/-! ### The frames of the shapes -/

theorem frame_regResult {x : Nibble} {b : Byte} {s t : State} (h : regResult x b s = .next t) : Frame [x] [] s t := by
  cases h
  exact ((Frame.refl s).setReg (by simp) b).jump _

theorem frame_flagResult {x : Nibble} {b : Byte} {f : Bool} {s t : State} (h : flagResult x b f s = .next t) :
    Frame [x, 0xF] [] s t := by
  cases h
  exact (((Frame.refl s).setReg (by simp) b).setReg (x := flagReg) (by simp [flagReg]) (flagByte f)).jump _

theorem frame_ldI {nnn : Addr12} {s t : State} (h : exec (.ldI nnn) s = .next t) : Frame [] [.index] s t := by
  rw [exec_ldI, Host.Outcome.next.injEq] at h
  subst h
  exact ((Frame.refl s).setI (by simp) _).jump _

theorem frame_ldMemStore {x : Nibble} {s t : State} (hb : s.i.toNat + x.val < 4096)
    (h : exec (.ldMemStore x) s = .next t) : Frame [] [.index, .memory] s t := by
  rw [exec_ldMemStore_of_lt hb, Host.Outcome.next.injEq] at h
  subst h
  exact (((Frame.refl s).setMem (by simp) _).setI (by simp) _).jump _

/-- FX55 in bounds leaves every byte outside I to I + x. -/
theorem read_ldMemStore_outside {x : Nibble} {s t : State} (hb : s.i.toNat + x.val < 4096)
    (h : exec (.ldMemStore x) s = .next t) {a : Nat} (ha : a < s.i.toNat ∨ s.i.toNat + x.val < a) :
    t.mem.read a = s.mem.read a := by
  rw [exec_ldMemStore_of_lt hb, Host.Outcome.next.injEq] at h
  subst h
  refine Memory.read_writeBlock_outside s.mem (s.regsUpTo x) ?_
  rw [State.length_regsUpTo, State.base_eq]
  omega

theorem frame_ldMemLoad {x : Nibble} {s t : State} (hb : s.i.toNat + x.val < 4096)
    (h : exec (.ldMemLoad x) s = .next t) :
    Frame ((List.finRange 16).filter fun k => k.val ≤ x.val) [.index] s t := by
  rw [exec_ldMemLoad_of_lt hb, Host.Outcome.next.injEq] at h
  subst h
  exact (((Frame.refl s).loadRegs fun k hk => by simpa using hk).setI (by simp) _).jump _

/-! ### The frame statements -/

/-- Settles O27: each of the six forms only jumps. -/
theorem jumpsAndSkipsChangeOnlyPc : Obligations.JumpsAndSkipsChangeOnlyPc := by
  intro nnn x y nn s t i hi h
  obtain ⟨w, hw⟩ := exec_eq_jump_of_mem s hi
  cases hw.symm.trans h
  exact (Frame.refl s).jump w

/-- Settles O34: a load writes one register, a flag-setting operation its destination and then VF. -/
theorem registerOperationsChangeOnlyTheirRegisters : Obligations.RegisterOperationsChangeOnlyTheirRegisters := by
  intro x y nn s t i h
  refine ⟨fun hi => ?_, fun hi => ?_⟩
  · obtain ⟨b, hb⟩ := exec_eq_regResult_of_mem s hi
    exact frame_regResult (hb.symm.trans h)
  · obtain ⟨b, f, hb⟩ := exec_eq_flagResult_of_mem s hi
    exact frame_flagResult (hb.symm.trans h)

/-- Settles O41: in bounds, each of the three is the composition of the writes that its frame lists. -/
theorem indexAndBlockInstructionsFrame : Obligations.IndexAndBlockInstructionsFrame := fun _ _ _ _ =>
  ⟨frame_ldI, fun hb h => ⟨frame_ldMemStore hb h, fun _ ha => read_ldMemStore_outside hb h ha⟩, frame_ldMemLoad⟩

end Sys2Proof.Machine

/-! SUPPORT. What one instruction and one step can do (40_cycle.md R111, R115), said once for every instruction, and the
rules that follow from it: the writers of each part, the invariant of 10_state.md R43, and that hidden stack slots stay
hidden (10_state.md R30). -/

namespace Sys2Proof.Machine

/-! ### What an instruction can do -/

/-- What an instruction makes of the state it starts from, up to the general registers and the draw counter: a fatal fault
and nothing else, or the parts it writes and the next pc. -/
inductive Effect (s : State) : Instr → State → Prop where
  | fatal (i : Instr) (kind : Fault) (info : Nat) : Effect s i (raiseFatal kind info (some (encode i)) s)
  | stall (x : Nibble) (hk : ∀ k, s.keyDown k = false) : Effect s (.ldK x) s
  | advance (i : Instr) : Effect s i s.advance
  | skip {i : Instr} (hi : ∃ x y nn, i ∈ [.seImm x nn, .sneImm x nn, .seReg x y, .sneReg x y, .skp x, .sknp x])
      (c : Bool) : Effect s i (s.skipIf c)
  | jp (nnn : Addr12) : Effect s (.jp nnn) (s.jump (zext16 nnn))
  | jpV0 (nnn : Addr12) : Effect s (.jpV0 nnn) (s.jump (zext16 nnn + zext16 (s.reg 0)))
  | call (nnn : Addr12) (h : s.sp.val < 16) : Effect s (.call nnn) ((s.push (s.pc + 2) h).jump (zext16 nnn))
  | ret (h : s.sp.val ≠ 0) : Effect s .ret (s.pop.jump s.top)
  | display {i : Instr} (hi : i = .cls ∨ ∃ x y n, i = .drw x y n) (fb : FrameBuffer) : Effect s i (s.display fb).advance
  | index {i : Instr} (hi : (∃ nnn, i = .ldI nnn) ∨ ∃ x, i ∈ [.addI x, .ldF x, .ldMemLoad x]) (w : Word) :
      Effect s i (s.setI w).advance
  | store (x : Nibble) (bytes : List Byte) (hb : s.i.toNat + bytes.length ≤ 4096) :
      Effect s (.ldB x) (s.setMem (s.mem.writeBlock s.base bytes)).advance
  | storeRegs (x : Nibble) (bytes : List Byte) (hb : s.i.toNat + bytes.length ≤ 4096) (w : Word) :
      Effect s (.ldMemStore x) ((s.setMem (s.mem.writeBlock s.base bytes)).setI w).advance
  | delay (x : Nibble) : Effect s (.ldDtVx x) (s.setDt (s.reg x)).advance
  | sound (x : Nibble) : Effect s (.ldStVx x) (s.setSt (s.reg x)).advance

/-- An outcome is a next state with an effect of the instruction, up to the general registers and the draw counter. -/
def HasEffect (s : State) (i : Instr) (o : Host.Outcome State Fault Refusal) : Prop :=
  ∃ u, Effect s i u ∧ ∃ v draws, o = .next { u with v := v, draws := draws }

theorem hasEffect_raiseFatalAt (s : State) (i : Instr) (kind : Fault) (info : Nat) :
    HasEffect s i (raiseFatalAt i kind info s) := ⟨_, .fatal i kind info, _, _, rfl⟩

theorem hasEffect_onBlock {s : State} {i : Instr} {len : Nat} {f : State → State}
    (hf : len = 0 ∨ s.i.toNat + len ≤ 4096 → HasEffect s i (.next (f s))) : HasEffect s i (onBlock i len f s) := by
  rw [onBlock_eq]
  split
  · next h => exact hf h
  · exact hasEffect_raiseFatalAt s i _ _

theorem hasEffect_keySkip {s : State} {i : Instr} {x : Nibble} (hi : i = .skp x ∨ i = .sknp x) (taken : Bool → Bool) :
    HasEffect s i (keySkip i x taken s) := by
  unfold keySkip
  split
  · exact ⟨_, .skip ⟨x, x, 0, by obtain rfl | rfl := hi <;> simp⟩ _, _, _, rfl⟩
  · exact hasEffect_raiseFatalAt s i _ _

theorem hasEffect_ldK (s : State) (x : Nibble) : HasEffect s (.ldK x) (execLdK x s) := by
  unfold execLdK
  obtain ⟨he, hk⟩ | ⟨k, he, -⟩ := highestDown_spec s.key 16 (Nat.le_refl 16)
  · rw [he]
    exact ⟨s, .stall x fun k => hk k k.isLt, _, _, rfl⟩
  · rw [he]
    exact ⟨_, .advance _, _, _, rfl⟩

theorem exec_ret_of_zero {s : State} (h : s.sp.val = 0) : exec .ret s = raiseFatalAt .ret .stackUnderflow s.sp.val s :=
  if_pos h

theorem exec_ret_of_ne_zero {s : State} (h : s.sp.val ≠ 0) : exec .ret s = .next (s.pop.jump s.top) := if_neg h

theorem hasEffect_ret (s : State) : HasEffect s .ret (exec .ret s) := by
  by_cases h : s.sp.val = 0
  · rw [exec_ret_of_zero h]
    exact hasEffect_raiseFatalAt s _ _ _
  · rw [exec_ret_of_ne_zero h]
    exact ⟨_, .ret h, _, _, rfl⟩

theorem exec_call_of_lt {s : State} (nnn : Addr12) (h : s.sp.val < 16) :
    exec (.call nnn) s = .next ((s.push (s.pc + 2) h).jump (zext16 nnn)) := dif_pos h

theorem exec_call_of_not_lt {s : State} (nnn : Addr12) (h : ¬ s.sp.val < 16) :
    exec (.call nnn) s = raiseFatalAt (.call nnn) .stackOverflow s.sp.val s := dif_neg h

theorem hasEffect_call (s : State) (nnn : Addr12) : HasEffect s (.call nnn) (exec (.call nnn) s) := by
  by_cases h : s.sp.val < 16
  · rw [exec_call_of_lt nnn h]
    exact ⟨_, .call nnn h, _, _, rfl⟩
  · rw [exec_call_of_not_lt nnn h]
    exact hasEffect_raiseFatalAt s _ _ _

theorem hasEffect_drw (s : State) (x y : Nibble) (n : Nat) : HasEffect s (.drw x y n) (execDrw x y n s) :=
  hasEffect_onBlock fun _ => ⟨_, .display (.inr ⟨x, y, n, rfl⟩) _, _, _, rfl⟩

theorem hasEffect_ldB (s : State) (x : Nibble) : HasEffect s (.ldB x) (execLdB x s) :=
  hasEffect_onBlock fun h => ⟨_, .store x (bcdDigits (s.reg x)) (h.resolve_left (by decide)), _, _, rfl⟩

theorem hasEffect_ldMemStore (s : State) (x : Nibble) : HasEffect s (.ldMemStore x) (execLdMemStore x s) := by
  refine hasEffect_onBlock fun h => ⟨_, .storeRegs x (s.regsUpTo x) ?_ _, _, _, rfl⟩
  rw [State.length_regsUpTo]
  exact h.resolve_left (Nat.succ_ne_zero _)

theorem hasEffect_ldMemLoad (s : State) (x : Nibble) : HasEffect s (.ldMemLoad x) (execLdMemLoad x s) :=
  hasEffect_onBlock fun _ => ⟨_, .index (.inr ⟨x, by simp⟩) _, _, _, rfl⟩

/-- Every instruction answers a next state with one of its effects. The instructions of the last case write general
registers only, CXNN the draw counter too. -/
theorem hasEffect_exec (s : State) (i : Instr) : HasEffect s i (exec i s) := by
  cases i with
  | cls => exact ⟨_, .display (.inl rfl) _, _, _, rfl⟩
  | drw x y n => exact hasEffect_drw s x y n
  | ret => exact hasEffect_ret s
  | call nnn => exact hasEffect_call s nnn
  | jp nnn => exact ⟨_, .jp nnn, _, _, rfl⟩
  | jpV0 nnn => exact ⟨_, .jpV0 nnn, _, _, rfl⟩
  | seImm x nn => exact ⟨_, .skip ⟨x, x, nn, by simp⟩ _, _, _, rfl⟩
  | sneImm x nn => exact ⟨_, .skip ⟨x, x, nn, by simp⟩ _, _, _, rfl⟩
  | seReg x y => exact ⟨_, .skip ⟨x, y, 0, by simp⟩ _, _, _, rfl⟩
  | sneReg x y => exact ⟨_, .skip ⟨x, y, 0, by simp⟩ _, _, _, rfl⟩
  | skp x => exact hasEffect_keySkip (.inl rfl) fun d => d
  | sknp x => exact hasEffect_keySkip (.inr rfl) fun d => !d
  | ldK x => exact hasEffect_ldK s x
  | ldDtVx x => exact ⟨_, .delay x, _, _, rfl⟩
  | ldStVx x => exact ⟨_, .sound x, _, _, rfl⟩
  | ldI nnn => exact ⟨_, .index (.inl ⟨nnn, rfl⟩) _, _, _, rfl⟩
  | addI x => exact ⟨_, .index (.inr ⟨x, by simp⟩) _, _, _, rfl⟩
  | ldF x => exact ⟨_, .index (.inr ⟨x, by simp⟩) _, _, _, rfl⟩
  | ldMemLoad x => exact hasEffect_ldMemLoad s x
  | ldB x => exact hasEffect_ldB s x
  | ldMemStore x => exact hasEffect_ldMemStore s x
  | _ => exact ⟨_, .advance _, _, _, rfl⟩

/-- The inversion of `exec`: whatever it answers is one of its effects, up to the registers and the draw counter. -/
theorem exec_cases {s t : State} {i : Instr} (h : exec i s = .next t) :
    ∃ u, Effect s i u ∧ ∃ v draws, t = { u with v := v, draws := draws } := by
  obtain ⟨u, hu, v, d, he⟩ := hasEffect_exec s i
  exact ⟨u, hu, v, d, Host.Outcome.next.inj (h.symm.trans he)⟩

/-! ### The step, branch by branch -/

section
variable {s : State} {w : Word}

theorem step_of_halted (hh : s.halted = true) : step s = .next s.clearOutputs := by
  simp [step, hh]

theorem step_of_fetch_none (hh : s.halted = false) (hf : s.fetch = none) :
    step s = .next (raiseFatal .fetchOutOfBounds s.pc.toNat none s.clearOutputs) := by
  simp [step, hh, hf]

theorem step_of_unknown {u : UnknownKind} (hh : s.halted = false) (hf : s.fetch = some w) (hd : decode w = .unknown u) :
    step s = .next (s.clearOutputs.executeUnknown w).tick := by
  simp [step, hh, hf, hd, finishStep]

theorem step_of_instr {i : Instr} (hh : s.halted = false) (hf : s.fetch = some w) (hd : decode w = .instr i) :
    step s = finishStep (exec i s.clearOutputs) := by
  simp [step, hh, hf, hd]

end

/-- What the end of a step makes of an execution that it answers: the tick, unless the core halted (R119, R120). -/
theorem finishStep_eq_next {o : Host.Outcome State Fault Refusal} {t : State} :
    finishStep o = .next t ↔ ∃ u, o = .next u ∧ t = if u.halted then u else u.tick := by
  cases o with
  | next u =>
    refine ⟨fun h => ⟨u, rfl, (Host.Outcome.next.inj h).symm⟩, ?_⟩
    rintro ⟨_, ⟨⟩, rfl⟩
    rfl
  | fault r => exact ⟨nofun, fun ⟨_, h, _⟩ => nomatch h⟩
  | refused r => exact ⟨nofun, fun ⟨_, h, _⟩ => nomatch h⟩

/-! ### The writers of each part -/

/-- Settles O54: an effect that writes a part says which instruction it belongs to, and no other effect writes it. -/
theorem eachPartHasItsWriters : Obligations.EachPartHasItsWriters := by
  intro i s t h
  obtain ⟨u, hu, v, d, rfl⟩ := exec_cases h
  cases hu with
  | display hi => obtain rfl | ⟨x, y, n, rfl⟩ := hi <;> simp
  | index hi =>
    simp only [List.mem_cons, List.not_mem_nil, or_false] at hi
    obtain ⟨nnn, rfl⟩ | ⟨x, rfl | rfl | rfl⟩ := hi <;> simp
  | _ => simp

/-! ### The invariant -/

@[simp] theorem toNat_zext16 {n : Nat} (hn : n ≤ 16) (a : BitVec n) : (zext16 a).toNat = a.toNat := by
  rw [zext16, BitVec.toNat_setWidth_of_le hn]

section
variable {s : State}

/-- A core that runs has no fault record. -/
theorem State.Inv.fault_eq_none (h : s.Inv) (hh : s.halted = false) : s.fault = none := by
  obtain ⟨-, -, -, hf, -⟩ := h
  rwa [hh, eq_comm, Option.isSome_eq_false_iff, Option.isNone_iff_eq_none] at hf

/-- A fault recorded at the pc of the state keeps the invariant, whatever was recorded before. -/
theorem State.Inv.raiseFatal (h : s.Inv) (kind : Fault) (info : Nat) (w : Option Word) :
    (raiseFatal kind info w s).Inv := by
  obtain ⟨hmem, hpc, hstack, -, -⟩ := h
  exact ⟨hmem, hpc, hstack, rfl, fun r hr => by cases hr; rfl⟩

/-- The pc of a running core may go anywhere up to 0x10FE. -/
theorem State.Inv.jump (h : s.Inv) (hh : s.halted = false) {w : Word} (hw : w.toNat ≤ 0x10FE) : (s.jump w).Inv := by
  have hnone := h.fault_eq_none hh
  obtain ⟨hmem, -, hstack, hfault, -⟩ := h
  exact ⟨hmem, hw, hstack, hfault, fun r hr => nomatch hnone.symm.trans hr⟩

theorem State.Inv.skipIf (h : s.Inv) (hh : s.halted = false) (hp : s.pc.toNat + 1 < 4096) (c : Bool) :
    (s.skipIf c).Inv := by
  refine h.jump hh ?_
  cases c
  · rw [if_neg Bool.false_ne_true]
    bv_omega
  · rw [if_pos rfl]
    bv_omega

theorem State.Inv.advance (h : s.Inv) (hh : s.halted = false) (hp : s.pc.toNat + 1 < 4096) : s.advance.Inv :=
  h.skipIf hh hp false

theorem State.Inv.setMem (h : s.Inv) {m : Memory} (hm : m.wf) : (s.setMem m).Inv := ⟨hm, h.2⟩

theorem State.Inv.push (h : s.Inv) {w : Word} (hw : w.toNat ≤ 0x1000) (hsp : s.sp.val < 16) : (s.push w hsp).Inv := by
  obtain ⟨hmem, hpc, hstack, hfault⟩ := h
  refine ⟨hmem, hpc, fun k => ?_, hfault⟩
  rw [State.stack_push]
  split
  · exact hw
  · exact hstack k

/-- The slot a return reads is one of the stack's. -/
theorem State.Inv.top_le (h : s.Inv) : s.top.toNat ≤ 0x1000 := by
  obtain ⟨-, -, hstack, -⟩ := h
  exact hstack ⟨s.sp.val - 1, by omega⟩

end

/-- An effect of an instruction fetched in bounds by a running core keeps the invariant. -/
theorem Effect.inv {s u : State} {i : Instr} (hu : Effect s i u) (h : s.Inv) (hh : s.halted = false)
    (hp : s.pc.toNat + 1 < 4096) : u.Inv := by
  have hmem : s.mem.wf := h.1
  cases hu with
  | fatal _ kind info => exact h.raiseFatal kind info _
  | stall => exact h
  | advance => exact h.advance hh hp
  | skip _ c => exact h.skipIf hh hp c
  | jp nnn =>
    refine h.jump hh ?_
    rw [toNat_zext16 (by decide)]
    omega
  | jpV0 nnn =>
    refine h.jump hh ?_
    rw [BitVec.toNat_add, toNat_zext16 (by decide), toNat_zext16 (by decide)]
    omega
  | call nnn hsp =>
    refine (h.push (by bv_omega) hsp).jump hh ?_
    rw [toNat_zext16 (by decide)]
    omega
  | ret => exact State.Inv.jump (s := s.pop) h hh (h.top_le.trans (by decide))
  | display _ fb => exact State.Inv.advance (s := s.display fb) h hh hp
  | index _ w => exact State.Inv.advance (s := s.setI w) h hh hp
  | store x bytes hb => exact (h.setMem (Memory.wf_writeBlock hmem hb)).advance hh hp
  | storeRegs x bytes hb w =>
    exact State.Inv.advance (s := (s.setMem _).setI w) (h.setMem (Memory.wf_writeBlock hmem hb)) hh hp
  | delay x => exact State.Inv.advance (s := s.setDt _) h hh hp
  | sound x => exact State.Inv.advance (s := s.setSt _) h hh hp

theorem exec_inv {s t : State} {i : Instr} (h : s.Inv) (hh : s.halted = false) (hp : s.pc.toNat + 1 < 4096)
    (he : exec i s = .next t) : t.Inv := by
  obtain ⟨u, hu, v, d, rfl⟩ := exec_cases he
  exact hu.inv h hh hp

/-- Settles O4: a fetch in bounds bounds the pc an instruction starts from, and so the pc and the return address it
leaves; the outputs and the timers are no part of the invariant. -/
theorem everyStepKeepsTheInvariant : Obligations.EveryStepKeepsTheInvariant := by
  intro s t h hs
  have hclear : s.clearOutputs.Inv := h
  obtain ⟨-, he⟩ | ⟨-, -, he⟩ | ⟨w, u, hh, hf, -, he⟩ | ⟨w, i, hh, hf, -, he⟩ := step_cases s
  · cases he.symm.trans hs
    exact hclear
  · cases he.symm.trans hs
    exact hclear.raiseFatal _ _ _
  · cases he.symm.trans hs
    exact hclear.advance hh (State.pc_lt_of_fetch hf)
  · obtain ⟨u, hu, rfl⟩ := finishStep_eq_next.1 (he.symm.trans hs)
    have hinv : u.Inv := exec_inv hclear hh (State.pc_lt_of_fetch hf) hu
    split
    · exact hinv
    · exact hinv

/-- Settles O3. -/
theorem resetMeetsTheInvariant : Obligations.ResetMeetsTheInvariant :=
  ⟨Memory.wf_nil, by decide, by decide, rfl, fun _ hr => nomatch hr⟩

/-- Settles O2: nothing is listed at reset, so every byte reads as the font table. -/
theorem resetMemoryHoldsTheFontTable : Obligations.ResetMemoryHoldsTheFontTable := by
  unfold Obligations.ResetMemoryHoldsTheFontTable
  decide

/-! ### Hidden stack slots -/

/-- The state with other stack slots. -/
def State.withStack (s : State) (k : Vector Word 16) : State := { s with stack := k }

@[simp] theorem State.withStack_i (s : State) (k : Vector Word 16) : (s.withStack k).i = s.i := rfl

theorem agreeBelowSp_iff {s t : State} :
    AgreeBelowSp s t ↔
      ∃ k : Vector Word 16, t = s.withStack k ∧ ∀ j : Fin 16, j.val < s.sp.val → k[j.val] = s.stack[j.val] := by
  constructor
  · rintro ⟨ht, hk⟩
    exact ⟨t.stack, ht, hk⟩
  · rintro ⟨k, rfl, hk⟩
    exact ⟨rfl, hk⟩

theorem AgreeBelowSp.tick {s t : State} (h : AgreeBelowSp s t) : AgreeBelowSp s.tick t.tick := by
  obtain ⟨k, rfl, hk⟩ := agreeBelowSp_iff.1 h
  exact ⟨rfl, hk⟩

theorem AgreeBelowSp.halted {s t : State} (h : AgreeBelowSp s t) : t.halted = s.halted := by
  obtain ⟨k, rfl, -⟩ := agreeBelowSp_iff.1 h
  rfl

section
variable {s t : State} {k : Vector Word 16}

theorem onBlock_withStack {i : Instr} {len : Nat} {f : State → State} (hf : f (s.withStack k) = (f s).withStack k)
    (h : onBlock i len f s = .next t) : onBlock i len f (s.withStack k) = .next (t.withStack k) := by
  rw [onBlock_eq] at h ⊢
  rw [State.withStack_i]
  split at h
  · next hb =>
    cases h
    rw [if_pos hb, hf]
  · next hb =>
    cases h
    exact if_neg hb

theorem keySkip_withStack {i : Instr} {x : Nibble} {taken : Bool → Bool} (h : keySkip i x taken s = .next t) :
    keySkip i x taken (s.withStack k) = .next (t.withStack k) := by
  unfold keySkip at h
  split at h
  · next hx =>
    cases h
    exact dif_pos hx
  · next hx =>
    cases h
    exact dif_neg hx

theorem execLdK_withStack {x : Nibble} (h : execLdK x s = .next t) :
    execLdK x (s.withStack k) = .next (t.withStack k) := by
  have hkey : (s.withStack k).key = s.key := rfl
  unfold execLdK at h ⊢
  rw [hkey]
  cases hd : highestDown s.key 16 (Nat.le_refl 16) with
  | none =>
    rw [hd] at h
    cases h
    rfl
  | some j =>
    rw [hd] at h
    cases h
    rfl

/-- An instruction other than 2NNN and 00EE neither reads nor writes the stack: it commutes with replacing it. -/
theorem exec_withStack {i : Instr} (hret : i ≠ .ret) (hcall : ∀ nnn, i ≠ .call nnn) (h : exec i s = .next t) :
    exec i (s.withStack k) = .next (t.withStack k) := by
  cases i with
  | ret => exact absurd rfl hret
  | call nnn => exact absurd rfl (hcall nnn)
  | drw x y n =>
    unfold exec execDrw at h
    exact onBlock_withStack rfl h
  | ldB x =>
    unfold exec execLdB at h
    exact onBlock_withStack rfl h
  | ldMemStore x =>
    unfold exec execLdMemStore at h
    exact onBlock_withStack rfl h
  | ldMemLoad x =>
    unfold exec execLdMemLoad at h
    exact onBlock_withStack rfl h
  | skp x => exact keySkip_withStack (i := .skp x) (taken := fun d => d) h
  | sknp x => exact keySkip_withStack (i := .sknp x) h
  | ldK x => exact execLdK_withStack h
  | _ =>
    cases h
    rfl

/-- 00EE reads the slot below sp only, and sp after it is no higher. -/
theorem exec_ret_agree (h : AgreeBelowSp s t) :
    ∃ s' t', exec .ret s = .next s' ∧ exec .ret t = .next t' ∧ AgreeBelowSp s' t' := by
  obtain ⟨k, rfl, hk⟩ := agreeBelowSp_iff.1 h
  by_cases h0 : s.sp.val = 0
  · exact ⟨_, _, exec_ret_of_zero h0, exec_ret_of_zero (s := s.withStack k) h0, rfl, hk⟩
  · have htop : (s.withStack k).top = s.top := hk ⟨s.sp.val - 1, by omega⟩ (Nat.sub_one_lt h0)
    refine ⟨_, _, exec_ret_of_ne_zero h0, exec_ret_of_ne_zero (s := s.withStack k) h0, ?_, fun j hj => ?_⟩
    · rw [htop]
      rfl
    · exact hk j (Nat.lt_of_lt_of_le hj (Nat.sub_le _ _))

/-- 2NNN writes the slot at sp, so that the states agree on the slot it counts. -/
theorem exec_call_agree (nnn : Addr12) (h : AgreeBelowSp s t) :
    ∃ s' t', exec (.call nnn) s = .next s' ∧ exec (.call nnn) t = .next t' ∧ AgreeBelowSp s' t' := by
  obtain ⟨k, rfl, hk⟩ := agreeBelowSp_iff.1 h
  by_cases hsp : s.sp.val < 16
  · refine ⟨_, _, exec_call_of_lt nnn hsp, exec_call_of_lt (s := s.withStack k) nnn hsp, rfl, fun j hj => ?_⟩
    change (k.set s.sp.val (s.pc + 2))[j.val] = (s.stack.set s.sp.val (s.pc + 2))[j.val]
    rw [Vector.getElem_set, Vector.getElem_set]
    split
    · rfl
    · next hne => exact hk j (Nat.lt_of_le_of_ne (Nat.le_of_lt_succ hj) (Ne.symm hne))
  · exact ⟨_, _, exec_call_of_not_lt nnn hsp, exec_call_of_not_lt (s := s.withStack k) nnn hsp, rfl, hk⟩

theorem exec_agree {i : Instr} {s' : State} (h : AgreeBelowSp s t) (hs : exec i s = .next s') :
    ∃ t', exec i t = .next t' ∧ AgreeBelowSp s' t' := by
  by_cases hret : i = .ret
  · subst hret
    obtain ⟨u, t', hu, ht, ha⟩ := exec_ret_agree h
    cases hu.symm.trans hs
    exact ⟨t', ht, ha⟩
  by_cases hcall : ∃ nnn, i = .call nnn
  · obtain ⟨nnn, rfl⟩ := hcall
    obtain ⟨u, t', hu, ht, ha⟩ := exec_call_agree nnn h
    cases hu.symm.trans hs
    exact ⟨t', ht, ha⟩
  · have hcall' : ∀ nnn, i ≠ .call nnn := fun nnn e => hcall ⟨nnn, e⟩
    obtain ⟨-, -, hkept, -⟩ := eachPartHasItsWriters i s s' hs
    obtain ⟨hstack, hsp⟩ := hkept hret hcall'
    obtain ⟨k, rfl, hk⟩ := agreeBelowSp_iff.1 h
    refine ⟨_, exec_withStack hret hcall' hs, rfl, ?_⟩
    rw [hstack, hsp]
    exact hk

end

/-- Settles O57: the branches of a step other than an instruction do not touch the stack. -/
theorem stackSlotsAboveSpNeverMatter : Obligations.StackSlotsAboveSpNeverMatter := by
  intro s t s' h hs
  obtain ⟨k, rfl, hk⟩ := agreeBelowSp_iff.1 h
  obtain ⟨hh, he⟩ | ⟨hh, hf, he⟩ | ⟨w, u, hh, hf, hd, he⟩ | ⟨w, i, hh, hf, hd, he⟩ := step_cases s
  · cases he.symm.trans hs
    exact ⟨_, step_of_halted (s := s.withStack k) hh, rfl, hk⟩
  · cases he.symm.trans hs
    exact ⟨_, step_of_fetch_none (s := s.withStack k) hh hf, rfl, hk⟩
  · cases he.symm.trans hs
    exact ⟨_, step_of_unknown (s := s.withStack k) hh hf hd, rfl, hk⟩
  · obtain ⟨u, hu, rfl⟩ := finishStep_eq_next.1 (he.symm.trans hs)
    obtain ⟨u', hu', ha⟩ := exec_agree (s := s.clearOutputs) (t := (s.withStack k).clearOutputs) ⟨rfl, hk⟩ hu
    refine ⟨_, (step_of_instr (s := s.withStack k) hh hf hd).trans (finishStep_eq_next.2 ⟨u', hu', rfl⟩), ?_⟩
    rw [ha.halted]
    split
    · exact ha
    · exact ha.tick

end Sys2Proof.Machine

/-! SUPPORT. Memory as the processor and the host share it (20_memory.md R74, R77, R78): what FX55 stores is what a
fetch reads, and what the host's moves between steps change. -/

namespace Sys2Proof.Machine

/-! ### A store and the fetch after it -/

theorem State.getElem?_regsUpTo {s : State} {x k : Nibble} (hk : k.val ≤ x.val) :
    (s.regsUpTo x)[k.val]? = some (s.reg k) := by
  rw [State.regsUpTo, List.getElem?_take_of_lt (by omega), Vector.getElem?_toList, Vector.getElem?_eq_getElem k.isLt]
  rfl

/-- FX55 in bounds puts each of V0 to Vx at its offset from I (43_index_memory.md R184). -/
theorem read_ldMemStore_inside {x k : Nibble} {s t : State} (hm : s.mem.wf) (hb : s.i.toNat + x.val < 4096)
    (h : exec (.ldMemStore x) s = .next t) (hk : k.val ≤ x.val) : t.mem.read (s.i.toNat + k.val) = s.reg k := by
  rw [exec_ldMemStore_of_lt hb, Host.Outcome.next.injEq] at h
  subst h
  refine Memory.read_writeBlock_inside hm ?_ (State.getElem?_regsUpTo hk)
  rw [State.length_regsUpTo, State.base_eq]
  omega

/-- Settles O43: both bytes of the fetched word are bytes that the store has just written, and both are in the space. -/
theorem storedBytesAreWhatTheNextFetchReads : Obligations.StoredBytesAreWhatTheNextFetchReads := by
  intro x a b s t hm hb h hab hbx hpc
  have hhi : t.mem.read t.pc.toNat = s.reg a := by
    rw [hpc]
    exact read_ldMemStore_inside hm hb h (by omega)
  have hlo : t.mem.read (t.pc.toNat + 1) = s.reg b := by
    rw [hpc, Nat.add_assoc, ← hab]
    exact read_ldMemStore_inside hm hb h hbx
  refine ⟨_, State.fetch_eq_some (by omega), ?_⟩
  rw [toNat_wordOfBytes, hhi, hlo]

/-! ### The host's moves -/

section
variable {s : State} {bytes : List Byte}

/-- A program that does not fit is rejected (R77). -/
theorem State.load_of_gt (h : bytes.length > 3584) :
    s.load bytes = { s with loadResult := some (.programTooLarge bytes.length) } := if_pos h

/-- A program that fits is written at 0x200 (R77). -/
theorem State.load_of_le (h : bytes.length ≤ 3584) :
    s.load bytes = { s with mem := s.mem.writeBlock 0x200 bytes, loadResult := some .ok } :=
  if_neg (Nat.not_lt.2 h)

theorem State.load_eq (s : State) (bytes : List Byte) :
    s.load bytes = { s with mem := (s.load bytes).mem, loadResult := (s.load bytes).loadResult } := by
  obtain h | h := Nat.lt_or_ge 3584 bytes.length
  · rw [State.load_of_gt h]
  · rw [State.load_of_le h]

/-- The longest program that fits ends at the end of the space. -/
theorem State.wf_load (hm : s.mem.wf) (bytes : List Byte) : (s.load bytes).mem.wf := by
  obtain h | h := Nat.lt_or_ge 3584 bytes.length
  · rw [State.load_of_gt h]
    exact hm
  · rw [State.load_of_le h]
    exact Memory.wf_writeBlock hm (by omega)

/-- Of what a load changes, the invariant speaks of memory only. -/
theorem State.Inv.load (h : s.Inv) (bytes : List Byte) : (s.load bytes).Inv := by
  obtain ⟨hmem, hrest⟩ := h
  rw [State.load_eq]
  exact ⟨State.wf_load hmem bytes, hrest⟩

theorem State.Inv.setKey (h : s.Inv) (k : Nibble) (down : Bool) : (s.setKey k down).Inv := h

theorem State.Inv.redrawAck (h : s.Inv) : s.redrawAck.Inv := h

end

/-- Settles O58: the program that fits is one block write inside the space. -/
theorem loadCopiesTheWholeProgramOrNothing : Obligations.LoadCopiesTheWholeProgramOrNothing := by
  intro s bytes hm
  refine ⟨fun h => ?_, fun h => ?_⟩
  · rw [State.load_of_gt h]
    exact ⟨rfl, rfl⟩
  · rw [State.load_of_le h]
    exact ⟨rfl, fun k b hk => Memory.read_writeBlock_inside hm (by omega) hk,
      fun a ha => Memory.read_writeBlock_outside s.mem bytes ha⟩

/-- Settles O59: the key and the redraw flag are no part of the invariant, and a load keeps memory canonical. -/
theorem hostMovesChangeOnlyTheirPart : Obligations.HostMovesChangeOnlyTheirPart := by
  intro s bytes k down
  exact ⟨State.load_eq s bytes, rfl, fun j => State.keyDown_setKey s k j down, rfl,
    fun h => ⟨h.load bytes, h.setKey k down, h.redrawAck⟩⟩

end Sys2Proof.Machine

/-! SUPPORT. Decoding and encoding are inverse to each other (30_encoding.md R81 to R92): what the decoder reads from a
word's fields, the word that its fields put together again, and which words the decoder knows (R93). -/

namespace Sys2Proof.Laws

/-- Every instruction's encoding holds its fields. -/
theorem EncodedFields.statement (i : Instr) : EncodedFields.Statement i :=
  Instr.casesOn (motive := EncodedFields.Statement) i cls ret jp call seImm sneImm seReg ldImm addImm ldReg or and xor
    addReg sub shr subn shl sneReg ldI jpV0 rnd drw skp sknp ldVxDt ldK ldDtVx ldStVx addI ldF ldB ldMemStore ldMemLoad

/-! ### The decoder on the groups that dispatch a second time (R87 to R92) -/

section
variable {w : Word}

theorem decode_of_group0 (h : fieldG w = 0x0) : decode w = decodeGroup0 w := by simp only [decode, h]

theorem decode_of_group5 (h : fieldG w = 0x5) : decode w = decodeGroup5 w := by simp only [decode, h]

theorem decode_of_group8 (h : fieldG w = 0x8) : decode w = decodeGroup8 w := by simp only [decode, h]

theorem decode_of_group9 (h : fieldG w = 0x9) : decode w = decodeGroup9 w := by simp only [decode, h]

theorem decode_of_groupE (h : fieldG w = 0xE) : decode w = decodeGroupE w := by simp only [decode, h]

theorem decode_of_groupF (h : fieldG w = 0xF) : decode w = decodeGroupF w := by simp only [decode, h]

end

/-- Settles O5: the encoding holds the instruction's fields, and the decoder dispatches on the fixed ones and reads the
others. -/
theorem decodeOfEncodeIsTheInstruction : Obligations.DecodeOfEncodeIsTheInstruction := by
  intro i hwf
  have hfields := EncodedFields.statement i
  cases i with
  | cls | ret => rfl
  | jp | call | ldI | jpV0 =>
    obtain ⟨hg, ha⟩ := hfields
    simp only [decode, hg, ha]
  | seImm | sneImm | ldImm | addImm | rnd =>
    obtain ⟨hg, hx, hnn⟩ := hfields
    simp only [decode, hg, hx, fieldNN_of_slice hnn]
  | drw =>
    obtain ⟨hg, hx, hy, hn⟩ := hfields hwf
    simp only [decode, hg, hx, hy, hn]
  | seReg =>
    obtain ⟨hg, hx, hy, hn⟩ := hfields
    rw [decode_of_group5 hg, decodeGroup5, if_pos hn, hx, hy]
  | ldReg | or | and | xor | addReg | sub | shr | subn | shl =>
    obtain ⟨hg, hx, hy, hn⟩ := hfields
    simp only [decode_of_group8 hg, decodeGroup8, hn, hx, hy]
  | sneReg =>
    obtain ⟨hg, hx, hy, hn⟩ := hfields
    rw [decode_of_group9 hg, decodeGroup9, if_pos hn, hx, hy]
  | skp | sknp =>
    obtain ⟨hg, hx, hnn⟩ := hfields
    simp only [decode_of_groupE hg, decodeGroupE, hnn, hx]
  | ldVxDt | ldK | ldDtVx | ldStVx | addI | ldF | ldB | ldMemStore | ldMemLoad =>
    obtain ⟨hg, hx, hnn⟩ := hfields
    simp only [decode_of_groupF hg, decodeGroupF, hnn, hx]

/-! ### A word is put together again from its fields -/

section
variable {w : Word} {g : Nat}

theorem HasNNN.formatNNN_eq {nnn : Addr12} (h : HasNNN w g nnn) : formatNNN g nnn = w := by
  obtain ⟨rfl, rfl⟩ := h
  have := w.isLt
  simp only [BitVec.toNat_eq, formatNNN, fieldG, fieldNNN, slice, BitVec.toNat_ofNat]
  omega

theorem HasXNN.formatXNN_eq {x : Nibble} {nn : Nat} (h : HasXNN w g x nn) : formatXNN g x nn = w := by
  obtain ⟨rfl, rfl, rfl⟩ := h
  have := w.isLt
  simp only [BitVec.toNat_eq, formatXNN, fieldG, fieldX, slice, BitVec.toNat_ofNat, Fin.val_ofNat]
  omega

theorem HasXYN.nibbles_eq {x y : Nibble} {n : Nat} (h : HasXYN w g x y n) : nibbles g x.val y.val n = w := by
  obtain ⟨rfl, rfl, rfl, rfl⟩ := h
  have := w.isLt
  simp only [BitVec.toNat_eq, nibbles, fieldG, fieldX, fieldY, fieldN, slice, BitVec.toNat_ofNat, Fin.val_ofNat]
  omega

/-- The immediate of a word is its low byte. -/
theorem hasXNN_fieldNN (h : fieldG w = g) : HasXNN w g (fieldX w) (fieldNN w).toNat :=
  ⟨h, rfl, (Nat.mod_eq_of_lt (Nat.mod_lt _ (by decide))).symm⟩

end

/-! ### What a group's decoder reads is encoded in the word -/

section
variable {w : Word} {i : Instr}

theorem encode_of_decodeGroup0 (h : decodeGroup0 w = .instr i) : encode i = w ∧ i.wf = true := by
  unfold decodeGroup0 at h
  split_ifs at h with hcls hret <;> cases h
  · exact ⟨hcls.symm, rfl⟩
  · exact ⟨hret.symm, rfl⟩

theorem encode_of_decodeGroup5 (hg : fieldG w = 0x5) (h : decodeGroup5 w = .instr i) : encode i = w ∧ i.wf = true := by
  unfold decodeGroup5 at h
  split_ifs at h with hn
  cases h
  exact ⟨HasXYN.nibbles_eq ⟨hg, rfl, rfl, hn⟩, rfl⟩

theorem encode_of_decodeGroup8 (hg : fieldG w = 0x8) (h : decodeGroup8 w = .instr i) : encode i = w ∧ i.wf = true := by
  unfold decodeGroup8 at h
  split at h <;> cases h
  all_goals exact ⟨HasXYN.nibbles_eq ⟨hg, rfl, rfl, ‹_›⟩, rfl⟩

theorem encode_of_decodeGroup9 (hg : fieldG w = 0x9) (h : decodeGroup9 w = .instr i) : encode i = w ∧ i.wf = true := by
  unfold decodeGroup9 at h
  split_ifs at h with hn
  cases h
  exact ⟨HasXYN.nibbles_eq ⟨hg, rfl, rfl, hn⟩, rfl⟩

theorem encode_of_decodeGroupE (hg : fieldG w = 0xE) (h : decodeGroupE w = .instr i) : encode i = w ∧ i.wf = true := by
  unfold decodeGroupE at h
  split at h <;> cases h
  all_goals exact ⟨HasXNN.formatXNN_eq ⟨hg, rfl, ‹_›⟩, rfl⟩

theorem encode_of_decodeGroupF (hg : fieldG w = 0xF) (h : decodeGroupF w = .instr i) : encode i = w ∧ i.wf = true := by
  unfold decodeGroupF at h
  split at h <;> cases h
  all_goals exact ⟨HasXNN.formatXNN_eq ⟨hg, rfl, ‹_›⟩, rfl⟩

end

/-- Settles O6: the group and the fields that the decoder reads put the word together again. -/
theorem encodeOfDecodeIsTheWord : Obligations.EncodeOfDecodeIsTheWord := by
  intro w i h
  unfold decode at h
  split at h
  case h_1 => exact encode_of_decodeGroup0 h
  case h_6 hg => exact encode_of_decodeGroup5 hg h
  case h_9 hg => exact encode_of_decodeGroup8 hg h
  case h_10 hg => exact encode_of_decodeGroup9 hg h
  case h_15 hg => exact encode_of_decodeGroupE hg h
  case h_16 =>
    simp only [imp_false] at *
    have := fieldG_lt w
    exact encode_of_decodeGroupF (by omega) h
  case h_14 hg =>
    cases h
    exact ⟨HasXYN.nibbles_eq ⟨hg, rfl, rfl, rfl⟩, decide_eq_true (fieldN_lt w)⟩
  case h_2 hg | h_3 hg | h_11 hg | h_12 hg =>
    cases h
    exact ⟨HasNNN.formatNNN_eq ⟨hg, rfl⟩, rfl⟩
  case h_4 hg | h_5 hg | h_7 hg | h_8 hg | h_13 hg =>
    cases h
    exact ⟨(hasXNN_fieldNN hg).formatXNN_eq, rfl⟩

/-! ### The unknown words (R93) -/

/-- Settles O7. -/
theorem groupZeroHoldsOnlyClsAndRet : Obligations.GroupZeroHoldsOnlyClsAndRet := by
  intro w hw
  have hg : fieldG w = 0x0 := by
    simp only [fieldG, slice]
    omega
  rw [decode_of_group0 hg]
  refine ⟨fun hcls => ?_, fun hret => ?_, fun hcls hret => ?_⟩
  · rw [hcls]
    rfl
  · rw [hret]
    rfl
  · rw [decodeGroup0, if_neg hcls, if_neg hret]

section
variable (w : Word)

theorem exists_decodeGroup0_unknown : (∃ u, decodeGroup0 w = .unknown u) ↔ w ≠ 0x00E0 ∧ w ≠ 0x00EE := by
  rw [decodeGroup0]
  split_ifs with hcls hret
  · simp [hcls]
  · simp [hret]
  · exact iff_of_true ⟨_, rfl⟩ ⟨hcls, hret⟩

theorem exists_decodeGroup5_unknown : (∃ u, decodeGroup5 w = .unknown u) ↔ fieldN w ≠ 0 := by
  unfold decodeGroup5
  split_ifs <;> simp [*]

theorem exists_decodeGroup8_unknown : (∃ u, decodeGroup8 w = .unknown u) ↔ 8 ≤ fieldN w ∧ fieldN w ≠ 0xE := by
  unfold decodeGroup8
  split
  case h_10 =>
    simp only [imp_false] at *
    exact iff_of_true ⟨_, rfl⟩ (by omega)
  all_goals simp [*]

theorem exists_decodeGroup9_unknown : (∃ u, decodeGroup9 w = .unknown u) ↔ fieldN w ≠ 0 := by
  unfold decodeGroup9
  split_ifs <;> simp [*]

theorem exists_decodeGroupE_unknown : (∃ u, decodeGroupE w = .unknown u) ↔ slice w 7 0 ≠ 0x9E ∧ slice w 7 0 ≠ 0xA1 := by
  unfold decodeGroupE
  split
  case h_3 hskp hsknp => exact iff_of_true ⟨_, rfl⟩ ⟨hskp, hsknp⟩
  all_goals simp [*]

theorem exists_decodeGroupF_unknown : (∃ u, decodeGroupF w = .unknown u) ↔
    slice w 7 0 ∉ [0x07, 0x0A, 0x15, 0x18, 0x1E, 0x29, 0x33, 0x55, 0x65] := by
  unfold decodeGroupF
  split
  case h_10 =>
    simp only [imp_false] at *
    simp [*]
  all_goals simp [*]

/-- Only six groups hold unknown words, each its own. -/
theorem exists_decode_unknown : (∃ u, decode w = .unknown u) ↔
    (fieldG w = 0x0 ∧ ∃ u, decodeGroup0 w = .unknown u) ∨ (fieldG w = 0x5 ∧ ∃ u, decodeGroup5 w = .unknown u) ∨
    (fieldG w = 0x8 ∧ ∃ u, decodeGroup8 w = .unknown u) ∨ (fieldG w = 0x9 ∧ ∃ u, decodeGroup9 w = .unknown u) ∨
    (fieldG w = 0xE ∧ ∃ u, decodeGroupE w = .unknown u) ∨ (fieldG w = 0xF ∧ ∃ u, decodeGroupF w = .unknown u) := by
  unfold decode
  split
  case h_16 =>
    simp only [imp_false] at *
    have := fieldG_lt w
    have hg : fieldG w = 0xF := by omega
    simp [hg]
  all_goals simp [*]

end

/-- The nibbles of a word written as a number, and its low byte. -/
theorem fields_of_toNat_eq {g x y n : Fin 16} {w : Word}
    (hw : w.toNat = g.val * 4096 + x.val * 256 + y.val * 16 + n.val) :
    fieldG w = g.val ∧ fieldN w = n.val ∧ slice w 7 0 = y.val * 16 + n.val := by
  simp only [fieldG, fieldN, slice]
  omega

/-- Settles O8: each of the six groups leaves out its family and no other word. -/
theorem unknownWordsAreTheSixFamilies : Obligations.UnknownWordsAreTheSixFamilies := by
  intro g x y n w hw
  obtain ⟨hg, hn, hnn⟩ := fields_of_toNat_eq hw
  rw [exists_decode_unknown, exists_decodeGroup0_unknown, exists_decodeGroup5_unknown, exists_decodeGroup8_unknown,
    exists_decodeGroup9_unknown, exists_decodeGroupE_unknown, exists_decodeGroupF_unknown, hg, hn, hnn]

end Sys2Proof.Laws

/-! SUPPORT. The step (40_cycle.md R111 to R125): the fetch, the order of a step, the unknown opcode, the next pc of every
instruction, the halted core, and the states in which a run has ended. -/

namespace Sys2Proof.Machine

/-! ### What the rest of a step leaves of a part -/

theorem Part.same_trans {p : Part} {s t u : State} (h : p.same s t) (h' : p.same t u) : p.same s u := by
  cases p with
  | memory => exact fun a => (h' a).trans (h a)
  | _ => simp_all [Part.same]

theorem Part.same_clearOutputs {p : Part} (ho : p ≠ .outputs) (s t : State) :
    p.same s t.clearOutputs ↔ p.same s t := by
  cases p with
  | outputs => exact absurd rfl ho
  | _ => simp [Part.same]

theorem Part.same_executeUnknown {p : Part} (hs : p ≠ .status) (ho : p ≠ .outputs) (s t : State) (w : Word) :
    p.same s (t.executeUnknown w) ↔ p.same s t := by
  cases p with
  | status => exact absurd rfl hs
  | outputs => exact absurd rfl ho
  | _ => simp [Part.same]

theorem Part.same_tick {p : Part} (hd : p ≠ .delay) (hs : p ≠ .sound) (ho : p ≠ .outputs) (s t : State) :
    p.same s t.tick ↔ p.same s t := by
  cases p with
  | delay => exact absurd rfl hd
  | sound => exact absurd rfl hs
  | outputs => exact absurd rfl ho
  | _ => simp [Part.same]

section
variable {regs : List Nibble} {parts : List Part} {s t u : State}

theorem Frame.trans (h : Frame regs parts s t) (h' : Frame regs parts t u) : Frame regs parts s u :=
  ⟨fun k hk => (h'.1 k hk).trans (h.1 k hk), fun p hp => Part.same_trans (h.2 p hp) (h'.2 p hp)⟩

theorem Frame.clearOutputs (h : Frame regs parts s t) (ho : .outputs ∈ parts) : Frame regs parts s t.clearOutputs :=
  ⟨h.1, fun p hp => (Part.same_clearOutputs (ne_of_mem_of_not_mem ho hp).symm s t).2 (h.2 p hp)⟩

theorem Frame.executeUnknown (h : Frame regs parts s t) (hs : .status ∈ parts) (ho : .outputs ∈ parts) (w : Word) :
    Frame regs parts s (t.executeUnknown w) :=
  ⟨h.1, fun p hp => (Part.same_executeUnknown (ne_of_mem_of_not_mem hs hp).symm (ne_of_mem_of_not_mem ho hp).symm
    s t w).2 (h.2 p hp)⟩

theorem Frame.tick (h : Frame regs parts s t) (hd : .delay ∈ parts) (hs : .sound ∈ parts) (ho : .outputs ∈ parts) :
    Frame regs parts s t.tick :=
  ⟨h.1, fun p hp => (Part.same_tick (ne_of_mem_of_not_mem hd hp).symm (ne_of_mem_of_not_mem hs hp).symm
    (ne_of_mem_of_not_mem ho hp).symm s t).2 (h.2 p hp)⟩

end

/-! ### The fetch -/

/-- Settles O10. -/
theorem fetchCombinesTwoBytesBigEndian : Obligations.FetchCombinesTwoBytesBigEndian := fun _ h =>
  ⟨_, State.fetch_eq_some h, toNat_wordOfBytes _ _⟩

/-- Settles O11: out of bounds the fetch gives no word, and the step raises the fault on the state with its outputs
cleared. -/
theorem fetchPastTheEndHaltsTheCore : Obligations.FetchPastTheEndHaltsTheCore := by
  intro s hh
  refine ⟨fun hpc => ?_, fun hpc => ?_⟩
  · rw [State.fetch_eq_some (by omega)]
    rfl
  · exact ⟨_, step_of_fetch_none hh (State.fetch_eq_none (by omega)), fatalAt_raiseFatal _ _ _ _⟩

/-! ### The order of a step -/

/-- Settles O12. -/
theorem stepRunsTheDecodedInstruction : Obligations.StepRunsTheDecodedInstruction := fun _ u _ _ hh hf hd he =>
  (step_of_instr hh hf hd).trans (finishStep_eq_next.2 ⟨u, he, rfl⟩)

/-- Settles O13: the state after the step is the composition of the three writes of R111 and R118, and its frame is
theirs. -/
theorem unknownOpcodeIsRecordedAndSkipped : Obligations.UnknownOpcodeIsRecordedAndSkipped := by
  intro s w u hh hf hd
  have hframe : Frame [] [.status, .outputs, .delay, .sound] s (s.clearOutputs.executeUnknown w).tick :=
    (((Frame.refl s).clearOutputs (by simp)).executeUnknown (by simp) (by simp) w).tick (by simp) (by simp) (by simp)
  exact ⟨_, step_of_unknown hh hf hd, rfl, rfl, rfl, rfl, rfl, hh, rfl, rfl, rfl, toNat_tickDown _, toNat_tickDown _,
    beq_iff_eq, hframe⟩

/-! ### The next pc -/

/-- An address and a byte add up within 16 bits (41_control.md R137). -/
theorem toNat_zext16_add (nnn : Addr12) (b : Byte) : (zext16 nnn + zext16 b).toNat = nnn.toNat + b.toNat := by
  rw [BitVec.toNat_add, toNat_zext16 (by decide), toNat_zext16 (by decide)]
  omega

/-- Settles O53: each effect of an instruction has its own next pc, and no write to a register or the draw counter moves
it. -/
theorem nextPcIsOneOfTheRuledCases : Obligations.NextPcIsOneOfTheRuledCases := by
  intro i s t h
  obtain ⟨u, hu, v, d, rfl⟩ := exec_cases h
  cases hu with
  | fatal => exact .inr (.inr (.inr (.inr (.inr ⟨rfl, .inr rfl⟩))))
  | stall x hk => exact .inr (.inr (.inr (.inr (.inr ⟨rfl, .inl ⟨x, rfl, hk⟩⟩))))
  | skip hi c =>
    cases c with
    | false => exact .inl rfl
    | true => exact .inr (.inl ⟨rfl, hi⟩)
  | jp nnn => exact .inr (.inr (.inl ⟨nnn, .inl rfl, toNat_zext16 (by decide) nnn⟩))
  | call nnn => exact .inr (.inr (.inl ⟨nnn, .inr rfl, toNat_zext16 (by decide) nnn⟩))
  | jpV0 nnn => exact .inr (.inr (.inr (.inl ⟨nnn, rfl, toNat_zext16_add nnn _⟩)))
  | ret hsp =>
    refine .inr (.inr (.inr (.inr (.inl ⟨rfl, ⟨s.sp.val - 1, by omega⟩, ?_, rfl⟩))))
    exact (Nat.sub_one_add_one hsp).symm
  | _ => exact .inl rfl

/-! ### The halted core -/

theorem steps_succ_iff_of_step {n : Nat} {s t u : State} (h : step s = .next u) : Steps (n + 1) s t ↔ Steps n u t := by
  simp [Steps, h]

theorem steps_succ_iff_of_halted {n : Nat} {s t : State} (hh : s.halted = true) :
    Steps (n + 1) s t ↔ t = s.clearOutputs := by
  induction n generalizing s with
  | zero => exact steps_succ_iff_of_step (step_of_halted hh)
  | succ n ih => exact (steps_succ_iff_of_step (step_of_halted hh)).trans (ih (s := s.clearOutputs) hh)

/-- Settles O14: clearing cleared outputs changes nothing more. -/
theorem haltedCoreStaysAsItIs : Obligations.HaltedCoreStaysAsItIs := fun _ _ _ => steps_succ_iff_of_halted

/-! ### The end of a run -/

/-- The instruction, executed in this state, is one of the ends of a running core (R125). -/
def SpinsInPlace (s : State) : Instr → Prop
  | .jp nnn => zext16 nnn = s.pc
  | .jpV0 nnn => zext16 nnn + zext16 (s.reg 0) = s.pc
  | .ldK _ => ∀ k, s.keyDown k = false
  | _ => False

/-- Nothing but the timers and the step's outputs differs. -/
def TicksOnly (s t : State) : Prop :=
  t.pc = s.pc ∧ t.loadResult = s.loadResult ∧ Frame [] [.delay, .sound, .outputs] s t

section
variable {s t u : State} {i : Instr} {w : Word}

theorem TicksOnly.refl (s : State) : TicksOnly s s := ⟨rfl, rfl, Frame.refl s⟩

theorem TicksOnly.trans (h : TicksOnly s t) (h' : TicksOnly t u) : TicksOnly s u := by
  obtain ⟨hpc, hload, hframe⟩ := h
  obtain ⟨hpc', hload', hframe'⟩ := h'
  exact ⟨hpc'.trans hpc, hload'.trans hload, hframe.trans hframe'⟩

theorem TicksOnly.clearOutputs (h : TicksOnly s t) : TicksOnly s t.clearOutputs := by
  obtain ⟨hpc, hload, hframe⟩ := h
  exact ⟨hpc, hload, hframe.clearOutputs (by simp)⟩

theorem TicksOnly.tick (h : TicksOnly s t) : TicksOnly s t.tick := by
  obtain ⟨hpc, hload, hframe⟩ := h
  exact ⟨hpc, hload, hframe.tick (by simp) (by simp) (by simp)⟩

theorem TicksOnly.halted_eq (h : TicksOnly s t) : t.halted = s.halted := by
  obtain ⟨-, -, -, hparts⟩ := h
  exact (hparts .status (by simp)).1

theorem TicksOnly.sp_eq (h : TicksOnly s t) : t.sp = s.sp := by
  obtain ⟨-, -, -, hparts⟩ := h
  exact (hparts .stack (by simp)).2

/-- The timers and the outputs do not decide whether a run has ended. -/
theorem TicksOnly.runEnd_eq (h : TicksOnly s t) : t.runEnd = s.runEnd := by
  have hhalted := h.halted_eq
  obtain ⟨hpc, -, hregs, hparts⟩ := h
  exact State.runEnd_congr hhalted hpc (hregs 0 (by simp)) (hparts .keys (by simp)) (hparts .memory (by simp))

theorem State.runEnd_of_fetch_none (hh : s.halted = false) (hf : s.fetch = none) : s.runEnd = none := by
  simp [State.runEnd, hh, hf]

theorem State.runEnd_of_unknown {k : UnknownKind} (hh : s.halted = false) (hf : s.fetch = some w)
    (hd : decode w = .unknown k) : s.runEnd = none := by
  simp [State.runEnd, hh, hf, hd]

theorem State.isSome_runEnd_of_instr (hh : s.halted = false) (hf : s.fetch = some w) (hd : decode w = .instr i) :
    s.runEnd.isSome = true ↔ SpinsInPlace s i := by
  simp only [State.runEnd, hh, hf, hd, Option.map_some]
  cases i <;> simp [SpinsInPlace]

theorem exec_ldK_of_no_key (x : Nibble) (hk : ∀ k, s.keyDown k = false) : exec (.ldK x) s = .next s := by
  have hnone : highestDown s.key 16 (Nat.le_refl 16) = none := by
    obtain ⟨he, -⟩ | ⟨k, -, -, hd, -⟩ := highestDown_spec s.key 16 (Nat.le_refl 16)
    · exact he
    · exact absurd ((hk k).symm.trans hd) Bool.false_ne_true
  change execLdK x s = _
  rw [execLdK, hnone]

theorem SpinsInPlace.exec_eq (h : SpinsInPlace s i) : exec i s = .next s := by
  cases i with
  | jp nnn => exact congrArg (fun a => Host.Outcome.next (s.jump a)) h
  | jpV0 nnn => exact congrArg (fun a => Host.Outcome.next (s.jump a)) h
  | ldK x => exact exec_ldK_of_no_key x h
  | _ => exact h.elim

/-- An instruction that leaves pc, sp and `halted` is one of the ends: a fatal fault halts, 2NNN and 00EE move sp, and every
other effect moves pc. -/
theorem Effect.spinsInPlace (hu : Effect s i u) (hpc : u.pc = s.pc) (hsp : u.sp = s.sp)
    (hh : u.halted = false) : SpinsInPlace s i := by
  cases hu with
  | fatal => cases hh
  | stall _ hk => exact hk
  | jp => exact hpc
  | jpV0 => exact hpc
  | call _ h => exact absurd (congrArg Fin.val hsp) (Nat.succ_ne_self _)
  | ret h => exact absurd (congrArg Fin.val hsp) (Nat.sub_one_lt h).ne
  | skip _ c => exact absurd hpc (s.skipIf_pc_ne c)
  | _ => exact absurd hpc s.advance_pc_ne

/-- The tick at the end of a step leaves `halted`. -/
theorem halted_ite_tick (s : State) : (if s.halted then s else s.tick).halted = s.halted := by
  split
  · rfl
  · rfl

/-- An instruction whose step changes nothing but the timers and the outputs is one of the ends. -/
theorem SpinsInPlace.of_step (hh : s.halted = false) (hf : s.fetch = some w) (hd : decode w = .instr i)
    (hs : step s = .next t) (h : TicksOnly s t) : SpinsInPlace s i := by
  obtain ⟨u', hexec, rfl⟩ := finishStep_eq_next.1 ((step_of_instr hh hf hd).symm.trans hs)
  have hrun : u'.halted = false := (halted_ite_tick u').symm.trans (h.halted_eq.trans hh)
  rw [if_neg (by simp [hrun])] at h
  obtain ⟨u, hu, v, d, rfl⟩ := exec_cases hexec
  exact hu.spinsInPlace (s := s.clearOutputs) h.1 h.sp_eq hrun

theorem step_of_spinsInPlace (hh : s.halted = false) (hf : s.fetch = some w) (hd : decode w = .instr i)
    (h : SpinsInPlace s i) : step s = .next s.clearOutputs.tick := by
  have hclear : SpinsInPlace s.clearOutputs i := h
  rw [step_of_instr hh hf hd, hclear.exec_eq, finishStep, if_neg]
  simp [hh]

/-- A run has ended exactly where a step changes only the timers and the outputs: by the branches of the step. -/
theorem State.isSome_runEnd_iff (s : State) : s.runEnd.isSome = true ↔ ∃ t, step s = .next t ∧ TicksOnly s t := by
  obtain ⟨hh, he⟩ | ⟨hh, hf, he⟩ | ⟨w, k, hh, hf, hd, he⟩ | ⟨w, i, hh, hf, hd, -⟩ := step_cases s
  · rw [State.runEnd_of_halted hh]
    exact iff_of_true rfl ⟨_, he, (TicksOnly.refl s).clearOutputs⟩
  · rw [State.runEnd_of_fetch_none hh hf]
    refine iff_of_false Bool.false_ne_true ?_
    rintro ⟨t, hs, ht⟩
    cases he.symm.trans hs
    cases ht.halted_eq.trans hh
  · rw [State.runEnd_of_unknown hh hf hd]
    refine iff_of_false Bool.false_ne_true ?_
    rintro ⟨t, hs, hpc, -⟩
    cases he.symm.trans hs
    exact s.advance_pc_ne hpc
  · rw [State.isSome_runEnd_of_instr hh hf hd]
    refine ⟨fun h => ⟨_, step_of_spinsInPlace hh hf hd h, (TicksOnly.refl s).clearOutputs.tick⟩, ?_⟩
    rintro ⟨t, hs, ht⟩
    exact .of_step hh hf hd hs ht

/-- From an ended state, any number of steps change only the timers and the outputs. -/
theorem Steps.ticksOnly {n : Nat} (he : s.runEnd.isSome = true) (h : Steps n s t) : TicksOnly s t := by
  induction n generalizing s with
  | zero =>
    cases h
    exact .refl t
  | succ n ih =>
    obtain ⟨u, hu, hticks⟩ := s.isSome_runEnd_iff.1 he
    rw [steps_succ_iff_of_step hu] at h
    rw [← hticks.runEnd_eq] at he
    exact hticks.trans (ih he h)

end

/-- Settles O60: what a step from an ended state leaves decides that the next state is the same end. -/
theorem runEndsWhereStepsOnlyTick : Obligations.RunEndsWhereStepsOnlyTick := by
  refine ⟨State.isSome_runEnd_iff, fun n s t e he h => ?_⟩
  have hticks : TicksOnly s t := h.ticksOnly (by rw [he]; rfl)
  exact ⟨hticks.runEnd_eq.trans he, hticks⟩

end Sys2Proof.Machine

/-! SUPPORT. Control transfer (41_control.md R130 to R138): the jumps and the register skips answer the state with a new
pc, the call and the return are a push and a pop before the jump, and the return undoes the call. -/

namespace Sys2Proof.Machine

/-! ### Rules shared by the result statements -/

/-- A word decodes to the instruction that it encodes. -/
theorem wordIs_of_encode_eq {w : Nat} {i : Instr} (hwf : i.wf = true) (h : encode i = BitVec.ofNat 16 w) :
    WordIs w i := by
  rw [WordIs, ← h]
  exact Sys2Proof.Laws.decodeOfEncodeIsTheInstruction i hwf

section
variable {regs : List Nibble} {parts : List Part} {s t : State}

theorem Frame.noFault (h : Frame regs parts s t) (hs : .status ∉ parts) (ho : .outputs ∉ parts) : NoFault s t := by
  obtain ⟨hhalted, hfault, -⟩ := h.2 .status hs
  obtain ⟨-, -, hfaultOut, -⟩ := h.2 .outputs ho
  exact ⟨hhalted, hfault, hfaultOut⟩

theorem Frame.flagKept (h : Frame regs parts s t) (hf : 0xF ∉ regs) : FlagKept s t := h.1 0xF hf

end

/-! ### Jumps and register skips -/

/-- An instruction that only jumps completes without a fault and keeps the flag. -/
theorem exists_next_of_exec_eq_jump {i : Instr} {s : State} {w : Word} (h : exec i s = .next (s.jump w)) :
    ∃ t, exec i s = .next t ∧ t.pc = w ∧ NoFault s t ∧ FlagKept s t := by
  have hframe : Frame [] [] s (s.jump w) := (Frame.refl s).jump w
  exact ⟨_, h, rfl, hframe.noFault (by simp) (by simp), hframe.flagKept (by simp)⟩

theorem State.skipIf_beq (s : State) (a b : Byte) :
    s.skipIf (a == b) = s.jump (if a = b then s.pc + 4 else s.pc + 2) := by
  by_cases h : a = b <;> simp [h]

theorem State.skipIf_bne (s : State) (a b : Byte) :
    s.skipIf (a != b) = s.jump (if a = b then s.pc + 2 else s.pc + 4) := by
  by_cases h : a = b <;> simp [h]

/-- Settles O19: the target is the zero-extended address. -/
theorem jumpSetsPcToTheAddress : Obligations.JumpSetsPcToTheAddress := by
  intro nnn s
  obtain ⟨t, ht, hpc, hnf, hfk⟩ := exists_next_of_exec_eq_jump (i := .jp nnn) (s := s) rfl
  refine ⟨wordIs_of_encode_eq rfl rfl, t, ht, ?_, hnf, hfk, fun h => State.fetch_eq_none (by omega)⟩
  rw [hpc, toNat_zext16 (by decide)]

/-- Settles O20: the sum of an address and a byte needs no reduction. -/
theorem computedJumpAddsV0 : Obligations.ComputedJumpAddsV0 := by
  intro nnn s
  obtain ⟨t, ht, hpc, hnf, hfk⟩ := exists_next_of_exec_eq_jump (i := .jpV0 nnn) (s := s) rfl
  refine ⟨wordIs_of_encode_eq rfl rfl, t, ht, ?_, hnf, hfk, fun h => State.fetch_eq_none (by omega)⟩
  rw [hpc, toNat_zext16_add]

/-- Settles O25: each skip jumps on the comparison of Vx with the immediate. -/
theorem immediateSkipsCompareTheRegister : Obligations.ImmediateSkipsCompareTheRegister := fun x nn s =>
  ⟨wordIs_of_encode_eq rfl rfl, wordIs_of_encode_eq rfl rfl,
    exists_next_of_exec_eq_jump (congrArg _ (s.skipIf_beq (s.reg x) nn)),
    exists_next_of_exec_eq_jump (congrArg _ (s.skipIf_bne (s.reg x) nn))⟩

/-- Settles O26: each skip jumps on the comparison of Vx with Vy. -/
theorem registerSkipsCompareTheRegisters : Obligations.RegisterSkipsCompareTheRegisters := fun x y s =>
  ⟨wordIs_of_encode_eq rfl rfl, wordIs_of_encode_eq rfl rfl,
    exists_next_of_exec_eq_jump (congrArg _ (s.skipIf_beq (s.reg x) (s.reg y))),
    exists_next_of_exec_eq_jump (congrArg _ (s.skipIf_bne (s.reg x) (s.reg y)))⟩

/-! ### The call and the return -/

theorem Part.same_push {p : Part} (hp : p ≠ .stack) (s t : State) (w : Word) (h : t.sp.val < 16) :
    p.same s (t.push w h) ↔ p.same s t := by
  cases p with
  | stack => exact absurd rfl hp
  | _ => simp [Part.same]

theorem Part.same_pop {p : Part} (hp : p ≠ .stack) (s t : State) : p.same s t.pop ↔ p.same s t := by
  cases p with
  | stack => exact absurd rfl hp
  | _ => simp [Part.same]

section
variable {regs : List Nibble} {parts : List Part} {s t : State}

theorem Frame.push (h : Frame regs parts s t) (hs : .stack ∈ parts) (w : Word) (hsp : t.sp.val < 16) :
    Frame regs parts s (t.push w hsp) :=
  ⟨h.1, fun p hp => (Part.same_push (ne_of_mem_of_not_mem hs hp).symm s t w hsp).2 (h.2 p hp)⟩

theorem Frame.pop (h : Frame regs parts s t) (hs : .stack ∈ parts) : Frame regs parts s t.pop :=
  ⟨h.1, fun p hp => (Part.same_pop (ne_of_mem_of_not_mem hs hp).symm s t).2 (h.2 p hp)⟩

end

theorem State.top_of_sp_eq {s : State} {k : Fin 16} (h : s.sp.val = k.val + 1) : s.top = s.stack[k.val] := by
  simp only [State.top, h, Nat.add_sub_cancel]

/-- Settles O21: below the capacity a CALL is a push and a jump. -/
theorem callPushesTheReturnAddress : Obligations.CallPushesTheReturnAddress := fun nnn s hsp =>
  ⟨_, exec_call_of_lt nnn hsp, toNat_zext16 (by decide) nnn, rfl, s.stack_push (s.pc + 2) hsp,
    ((Frame.refl s).push (by simp) _ hsp).jump _⟩

/-- Settles O22: with an occupied stack RET is a pop and a jump to the top slot. -/
theorem returnPopsTheReturnAddress : Obligations.ReturnPopsTheReturnAddress := by
  intro s k hk
  have hne : s.sp.val ≠ 0 := by omega
  exact ⟨_, exec_ret_of_ne_zero hne, State.top_of_sp_eq hk, Nat.sub_eq_of_eq_add hk, rfl,
    ((Frame.refl s).pop (by simp)).jump _⟩

/-- Settles O24: the subroutine hands RET the sp and the slot that the CALL left, so RET pops what the CALL pushed. -/
theorem callThenReturnComesBack : Obligations.CallThenReturnComesBack := by
  intro nnn s t u k hk hcall husp huslot
  obtain ⟨t', ht', -, htsp, htslots, -⟩ := callPushesTheReturnAddress nnn s (hk ▸ k.isLt)
  cases ht'.symm.trans hcall
  have hsp : u.sp.val = k.val + 1 := by rw [husp, htsp, hk]
  have hslot : u.stack[k.val] = s.pc + 2 := by rw [huslot, htslots k, if_pos hk.symm]
  obtain ⟨v, hv, hpc, hvsp, -⟩ := returnPopsTheReturnAddress u k hsp
  exact ⟨v, hv, hpc.trans hslot, Fin.ext (hvsp.trans hk.symm)⟩

end Sys2Proof.Machine

/-! SUPPORT. Register loads, arithmetic and the random byte (42_alu.md R150 to R163): which general registers an instruction
can write, the result and the flag of the two shapes of `Machine/Alu.lean`, and the flags as numbers. -/

namespace Sys2Proof.Machine

/-! ### What the two shapes leave in the registers -/

section
variable {x k : Nibble} {b : Byte} {f : Bool} {s t : State}

theorem State.reg_setReg_self (s : State) (x : Nibble) (b : Byte) : (s.setReg x b).reg x = b := by
  rw [State.reg_setReg, if_pos rfl]

theorem State.reg_setReg_of_ne (s : State) (b : Byte) (h : k ≠ x) : (s.setReg x b).reg k = s.reg k := by
  rw [State.reg_setReg, if_neg h]

theorem reg_of_regResult (h : regResult x b s = .next t) : t.reg x = b := by
  cases h
  exact State.reg_setReg_self _ x _

theorem flag_of_flagResult (h : flagResult x b f s = .next t) : t.reg 0xF = flagByte f := by
  cases h
  exact State.reg_setReg_self _ flagReg _

/-- The flag is written after the result (00_scope.md R16, decision D3), so it leaves every other destination. -/
theorem reg_of_flagResult (h : flagResult x b f s = .next t) (hx : x ≠ 0xF) : t.reg x = b := by
  cases h
  exact (State.reg_setReg_of_ne _ _ hx).trans (State.reg_setReg_self _ x _)

end

/-! ### The registers an instruction can write -/

/-- The general registers an instruction can write: its destination, VF where it sets the flag (42_alu.md R163), V0 to Vx
for FX65 (43_index_memory.md R185). Tied to `exec` by `reg_exec_of_not_mem`. -/
def writtenRegs : Instr → List Nibble
  | .ldImm x _ | .addImm x _ | .ldReg x _ | .or x _ | .and x _ | .xor x _ | .rnd x _ | .ldVxDt x | .ldK x => [x]
  | .addReg x _ | .sub x _ | .shr x _ | .subn x _ | .shl x _ => [x, 0xF]
  | .drw _ _ _ | .addI _ => [0xF]
  | .ldMemLoad x => (List.finRange 16).filter fun k => k.val ≤ x.val
  | .cls | .ret | .jp _ | .call _ | .seImm _ _ | .sneImm _ _ | .seReg _ _ | .sneReg _ _ | .ldI _ | .jpV0 _ => []
  | .skp _ | .sknp _ | .ldDtVx _ | .ldStVx _ | .ldF _ | .ldB _ | .ldMemStore _ => []

section
variable {i : Instr} {s t : State} {x k : Nibble}

/-- The inversion of a block access: its effect, or the fatal fault (20_memory.md R66, 60_exceptions.md R243). -/
theorem onBlock_cases {len : Nat} {f : State → State} (h : onBlock i len f s = .next t) :
    t = f s ∨ t = raiseFatal .memOutOfBounds (max s.i.toNat 4096) (some (encode i)) s := by
  rw [onBlock_eq] at h
  split at h <;> cases h
  · exact .inl rfl
  · exact .inr rfl

/-- A block access keeps the registers that its effect keeps. -/
theorem reg_of_onBlock {len : Nat} {f : State → State} (h : onBlock i len f s = .next t)
    (hf : (f s).reg k = s.reg k) : t.reg k = s.reg k := by
  obtain rfl | rfl := onBlock_cases h
  · exact hf
  · exact reg_raiseFatal ..

theorem reg_of_keySkip {taken : Bool → Bool} (h : keySkip i x taken s = .next t) : t.reg k = s.reg k := by
  unfold keySkip at h
  split at h <;> cases h <;> rfl

theorem reg_of_ldK (h : exec (.ldK x) s = .next t) (hk : k ≠ x) : t.reg k = s.reg k := by
  change execLdK x s = _ at h
  unfold execLdK at h
  split at h <;> cases h
  · rfl
  · exact State.reg_setReg_of_ne _ _ hk

theorem reg_of_ret (h : exec .ret s = .next t) : t.reg k = s.reg k := by
  by_cases hsp : s.sp.val = 0
  · cases (exec_ret_of_zero hsp).symm.trans h
    rfl
  · cases (exec_ret_of_ne_zero hsp).symm.trans h
    rfl

theorem reg_of_call {nnn : Addr12} (h : exec (.call nnn) s = .next t) : t.reg k = s.reg k := by
  by_cases hsp : s.sp.val < 16
  · cases (exec_call_of_lt nnn hsp).symm.trans h
    rfl
  · cases (exec_call_of_not_lt nnn hsp).symm.trans h
    rfl

/-- The register frame of every instruction: what it does not list, it leaves (00_scope.md R17). -/
theorem reg_exec_of_not_mem (h : exec i s = .next t) (hk : k ∉ writtenRegs i) : t.reg k = s.reg k := by
  cases i with
  | ldImm x nn | addImm x nn | ldReg x y | or x y | and x y | xor x y | rnd x nn | ldVxDt x =>
    exact (frame_regResult h).1 k hk
  | addReg x y | sub x y | shr x y | subn x y | shl x y => exact (frame_flagResult h).1 k hk
  | ldK x => exact reg_of_ldK h (List.ne_of_not_mem_cons hk)
  | addI x =>
    have hflag : k ≠ flagReg := List.ne_of_not_mem_cons hk
    cases h
    exact State.reg_setReg_of_ne _ _ hflag
  | drw x y n =>
    have hflag : k ≠ flagReg := List.ne_of_not_mem_cons hk
    exact reg_of_onBlock (show execDrw x y n s = .next t from h) (State.reg_setReg_of_ne _ _ hflag)
  | ldMemLoad x =>
    have hgt : ¬ k.val ≤ x.val := by simpa [writtenRegs] using hk
    exact reg_of_onBlock (show execLdMemLoad x s = .next t from h) ((State.reg_loadRegs ..).trans (if_neg hgt))
  | ldB x => exact reg_of_onBlock (show execLdB x s = .next t from h) rfl
  | ldMemStore x => exact reg_of_onBlock (show execLdMemStore x s = .next t from h) rfl
  | skp x => exact reg_of_keySkip (show execSkp x s = .next t from h)
  | sknp x => exact reg_of_keySkip (show execSknp x s = .next t from h)
  | ret => exact reg_of_ret h
  | call nnn => exact reg_of_call h
  | cls | jp nnn | jpV0 nnn | seImm x nn | sneImm x nn | seReg x y | sneReg x y | ldI nnn | ldF x | ldDtVx x | ldStVx x =>
    cases h
    rfl

/-! ### VF and its writers -/

/-- A flag writer that completes leaves a flag byte in VF (42_alu.md R163). -/
theorem exists_flag_of_mem {y : Nibble} {n : Nat}
    (hi : i ∈ [.addReg x y, .sub x y, .shr x y, .subn x y, .shl x y, .drw x y n, .addI x])
    (h : exec i s = .next t) (hh : t.halted = false) : ∃ f, t.reg 0xF = flagByte f := by
  have hshape : i ∈ [.addReg x y, .sub x y, .shr x y, .subn x y, .shl x y] ∨ i = .drw x y n ∨ i = .addI x := by
    simpa [or_assoc] using hi
  obtain hop | rfl | rfl := hshape
  · obtain ⟨b, f, hexec⟩ := exec_eq_flagResult_of_mem s hop
    exact ⟨f, flag_of_flagResult (hexec.symm.trans h)⟩
  · obtain rfl | rfl := onBlock_cases (show execDrw x y n s = .next t from h)
    · exact ⟨_, State.reg_setReg_self _ flagReg _⟩
    · cases hh
  · cases h
    exact ⟨_, State.reg_setReg_self _ flagReg _⟩

/-- What can write VF: a flag writer, or a register writer with VF as the destination (42_alu.md R163). -/
theorem flag_mem_writtenRegs (h : 0xF ∈ writtenRegs i) :
    (∃ x y n, i ∈ [.addReg x y, .sub x y, .shr x y, .subn x y, .shl x y, .drw x y n, .addI x]) ∨
    ∃ y nn, i ∈ [.ldImm 0xF nn, .addImm 0xF nn, .ldReg 0xF y, .or 0xF y, .and 0xF y, .xor 0xF y, .rnd 0xF nn,
        .ldVxDt 0xF, .ldK 0xF, .ldMemLoad 0xF] := by
  cases i with
  | addReg x y | sub x y | shr x y | subn x y | shl x y => exact .inl ⟨x, y, 0, by simp⟩
  | drw x y n => exact .inl ⟨x, y, n, by simp⟩
  | addI x => exact .inl ⟨x, 0, 0, by simp⟩
  | ldImm x nn | addImm x nn | rnd x nn => exact .inr ⟨0, nn, by simp [List.mem_singleton.1 h]⟩
  | ldReg x y | or x y | and x y | xor x y => exact .inr ⟨y, 0, by simp [List.mem_singleton.1 h]⟩
  | ldVxDt x | ldK x => exact .inr ⟨0, 0, by simp [List.mem_singleton.1 h]⟩
  | ldMemLoad x =>
    have hle : (15 : Nibble) ≤ x := by simpa [writtenRegs] using h
    have hx : x = 0xF := le_antisymm (Fin.le_last x) hle
    exact .inr ⟨0, 0, by simp [hx]⟩
  | _ => cases h

end

/-- Settles O55: a flag writer leaves a flag byte, and an instruction that is neither a flag writer nor writes VF as its
destination does not list VF among the registers it can write. -/
theorem flagIsWrittenByItsWritersOnly : Obligations.FlagIsWrittenByItsWritersOnly := by
  intro i s t h hh
  refine ⟨fun ⟨x, y, n, hi⟩ => ?_, fun hflag hdest => reg_exec_of_not_mem h fun hmem => ?_⟩
  · obtain ⟨f, hf⟩ := exists_flag_of_mem hi h hh
    rw [hf]
    exact flagByte_zero_or_one f
  · obtain ⟨x, y, n, hi⟩ | ⟨y, nn, hi⟩ := flag_mem_writtenRegs hmem
    · exact hflag x y n hi
    · exact hdest y nn hi

/-! ### The result statements of the two shapes -/

section
variable {i : Instr} {x : Nibble} {b : Byte} {s : State}

/-- A register write completes with its result, the default next pc, and nothing else changed. -/
theorem exists_next_of_exec_eq_regResult (P : Byte → Prop) (h : exec i s = regResult x b s) (hb : P b) :
    ∃ t, exec i s = .next t ∧ P (t.reg x) ∧ t.pc = s.pc + 2 ∧ Frame [x] [] s t := by
  refine ⟨_, h, ?_, rfl, frame_regResult rfl⟩
  rwa [reg_of_regResult rfl]

/-- The same, with the result given bit by bit. -/
theorem exists_next_of_bits {p : Nat → Bool} (h : exec i s = regResult x b s) (hb : ∀ k, b.getLsbD k = p k) :
    ∃ t, exec i s = .next t ∧ (∀ k, (t.reg x).getLsbD k = p k) ∧ t.pc = s.pc + 2 ∧ Frame [x] [] s t :=
  exists_next_of_exec_eq_regResult (fun r => ∀ k, r.getLsbD k = p k) h hb

/-- A load of a register raises no fault, and keeps VF unless VF is the destination. -/
theorem exists_next_of_load (h : exec i s = regResult x b s) :
    ∃ t, exec i s = .next t ∧ t.reg x = b ∧ t.pc = s.pc + 2 ∧ NoFault s t ∧ (x ≠ 0xF → FlagKept s t) := by
  obtain ⟨t, ht, hx, hpc, hframe⟩ := exists_next_of_exec_eq_regResult (· = b) h rfl
  exact ⟨t, ht, hx, hpc, hframe.noFault (by simp) (by simp), fun hne => hframe.flagKept (by simpa using hne.symm)⟩

/-- A flag-writing operation completes with its flag in VF, and with its result in a destination other than VF: the flag
wins (00_scope.md R16, decision D3). -/
theorem exists_next_of_exec_eq_flagResult {f : Bool} {flag result : Nat} (h : exec i s = flagResult x b f s)
    (hf : (flagByte f).toNat = flag) (hb : b.toNat = result) :
    ∃ t, exec i s = .next t ∧ (t.reg 0xF).toNat = flag ∧ (x ≠ 0xF → (t.reg x).toNat = result) ∧ t.pc = s.pc + 2 ∧
      NoFault s t := by
  refine ⟨_, h, ?_, fun hx => ?_, rfl, (frame_flagResult (f := f) rfl).noFault (by simp) (by simp)⟩
  · rw [flag_of_flagResult rfl, hf]
  · rw [reg_of_flagResult (f := f) rfl hx, hb]

end

/-- The words of group 8 (30_encoding.md R89). -/
theorem wordIs_of_encode_eq_nibbles {i : Instr} {x y : Nibble} {w n : Nat} (hwf : i.wf = true)
    (h : encode i = nibbles 0x8 x.val y.val n) (hw : w = 0x8000 + n) : WordIs (w + x.val * 256 + y.val * 16) i :=
  wordIs_of_encode_eq hwf (h.trans (congrArg (BitVec.ofNat 16) (by omega)))

/-! ### Flags and results as numbers -/

theorem toNat_carryFlag (a b : Byte) :
    (flagByte (carryOf a b)).toNat = if a.toNat + b.toNat > 255 then 1 else 0 := by
  simp only [flagByte_toNat, carryOf, decide_eq_true_eq]

theorem toNat_noBorrowFlag (a b : Byte) :
    (flagByte (noBorrowOf a b)).toNat = if a.toNat ≥ b.toNat then 1 else 0 := by
  simp only [flagByte_toNat, noBorrowOf, decide_eq_true_eq]

/-- A bit of a byte, as a flag, is that binary digit. -/
theorem toNat_flagByte_getLsbD (a : Byte) (k : Nat) : (flagByte (a.getLsbD k)).toNat = a.toNat / 2 ^ k % 2 := by
  rw [← Nat.toNat_testBit, BitVec.getLsbD]
  cases a.toNat.testBit k <;> rfl

theorem toNat_lowBitFlag (a : Byte) : (flagByte (lowBitOf a)).toNat = a.toNat % 2 := by
  rw [lowBitOf, toNat_flagByte_getLsbD, Nat.pow_zero, Nat.div_one]

/-- Bit 7 is the top digit of a byte, so it is the whole quotient. -/
theorem toNat_highBitFlag (a : Byte) : (flagByte (highBitOf a)).toNat = a.toNat / 128 := by
  rw [highBitOf, toNat_flagByte_getLsbD]
  omega

/-- The difference modulo 256, counted from above 256. -/
theorem toNat_sub_byte (a b : Byte) : (a - b).toNat = (a.toNat + 256 - b.toNat) % 256 := by
  bv_omega

theorem toNat_shiftRight_one (a : Byte) : (a >>> 1).toNat = a.toNat / 2 := by
  rw [BitVec.toNat_ushiftRight, Nat.shiftRight_one]

theorem toNat_shiftLeft_one (a : Byte) : (a <<< 1).toNat = a.toNat * 2 % 256 := by
  rw [BitVec.toNat_shiftLeft, Nat.shiftLeft_eq, Nat.pow_one]

/-! ### The results -/

/-- Settles O28: both loads are register writes. -/
theorem loadsWriteTheRegister : Obligations.LoadsWriteTheRegister := fun _ _ _ _ =>
  ⟨wordIs_of_encode_eq rfl rfl, wordIs_of_encode_eq rfl rfl, exists_next_of_load rfl, exists_next_of_load rfl⟩

/-- Settles O29: the four are register writes, whose frame leaves VF out unless it is the destination. -/
theorem flaglessOperationsWriteTheResult : Obligations.FlaglessOperationsWriteTheResult := fun x _ nn s =>
  ⟨exists_next_of_exec_eq_regResult (fun r => r.toNat = _) rfl (BitVec.toNat_add (s.reg x) nn),
    exists_next_of_bits rfl fun _ => BitVec.getLsbD_or,
    exists_next_of_bits rfl fun _ => BitVec.getLsbD_and,
    exists_next_of_bits rfl fun _ => BitVec.getLsbD_xor⟩

/-- Settles O30: the carry is read off the sum of the source values. -/
theorem addSetsCarryFromSourceValues : Obligations.AddSetsCarryFromSourceValues := fun _ _ _ =>
  ⟨wordIs_of_encode_eq_nibbles rfl rfl rfl,
    exists_next_of_exec_eq_flagResult rfl (toNat_carryFlag _ _) (BitVec.toNat_add _ _)⟩

/-- Settles O31: the two subtractions differ in the order of their operands only. -/
theorem subtractionsSetNoBorrow : Obligations.SubtractionsSetNoBorrow := fun _ _ _ =>
  ⟨wordIs_of_encode_eq_nibbles rfl rfl rfl, wordIs_of_encode_eq_nibbles rfl rfl rfl,
    exists_next_of_exec_eq_flagResult rfl (toNat_noBorrowFlag _ _) (toNat_sub_byte _ _),
    exists_next_of_exec_eq_flagResult rfl (toNat_noBorrowFlag _ _) (toNat_sub_byte _ _)⟩

/-- Settles O32: halving loses the remainder, doubling modulo 256 loses bit 7. -/
theorem shiftsMoveTheLostBitToTheFlag : Obligations.ShiftsMoveTheLostBitToTheFlag := fun _ _ _ =>
  ⟨wordIs_of_encode_eq_nibbles rfl rfl rfl, wordIs_of_encode_eq_nibbles rfl rfl rfl,
    exists_next_of_exec_eq_flagResult rfl (toNat_lowBitFlag _) (toNat_shiftRight_one _),
    exists_next_of_exec_eq_flagResult rfl (toNat_highBitFlag _) (toNat_shiftLeft_one _)⟩

/-! ### The random byte -/

theorem Part.same_nextRandom {p : Part} (hp : p ≠ .draws) (s t : State) :
    p.same s t.nextRandom.2 ↔ p.same s t := by
  cases p with
  | draws => exact absurd rfl hp
  | _ => simp [Part.same]

theorem Frame.nextRandom {regs : List Nibble} {parts : List Part} {s t : State} (h : Frame regs parts s t)
    (hd : .draws ∈ parts) : Frame regs parts s t.nextRandom.2 :=
  ⟨h.1, fun p hp => (Part.same_nextRandom (ne_of_mem_of_not_mem hd hp).symm s t).2 (h.2 p hp)⟩

/-- Settles O33: a draw, then a register write of the masked byte. -/
theorem randomByteIsMasked : Obligations.RandomByteIsMasked := fun x nn s =>
  ⟨_, rfl, State.reg_setReg_self _ x _, rfl, rfl,
    (((Frame.refl s).nextRandom (by simp)).setReg (by simp) _).jump _⟩

end Sys2Proof.Machine

/-! SUPPORT. The index register and the transfers through it (43_index_memory.md R180 to R187): the three that set I, the
decimal digits, and the block store and load in and out of bounds. -/

namespace Sys2Proof.Machine

/-! ### Setting I -/

/-- The sum of I and a byte wraps at 2^16, not at 2^12 (43_index_memory.md R181, decision D9). -/
theorem toNat_add_zext16 (i : Word) (b : Byte) : (i + zext16 b).toNat = (i.toNat + b.toNat) % 65536 := by
  rw [BitVec.toNat_add, toNat_zext16 (by decide)]

theorem toNat_indexOverflowFlag (i : Word) (b : Byte) :
    (flagByte (indexOverflowOf i b)).toNat = if i.toNat + b.toNat > 0xFFF then 1 else 0 := by
  simp only [flagByte_toNat, indexOverflowOf, decide_eq_true_eq]

/-- The highest glyph address, 5 * 255, is far below 2^16. -/
theorem toNat_glyphAddress (b : Byte) :
    (BitVec.ofNat 16 (Config.fontBase + b.toNat * Config.glyphBytes)).toNat = b.toNat * 5 := by
  have := b.isLt
  rw [BitVec.toNat_ofNat, Config.fontBase, Config.glyphBytes]
  omega

/-- Settles O35: LD I sets I and advances. -/
theorem loadIndexSetsI : Obligations.LoadIndexSetsI := by
  intro nnn s
  have hframe := frame_ldI (exec_ldI nnn s)
  exact ⟨wordIs_of_encode_eq rfl rfl, _, exec_ldI nnn s, toNat_zext16 (by decide) nnn, rfl,
    hframe.noFault (by simp) (by simp), hframe.flagKept (by simp)⟩

/-- Settles O36: the sum is written to I and then the flag to VF, both from the values at the start. -/
theorem addIndexFlagsPastTheAddressSpace : Obligations.AddIndexFlagsPastTheAddressSpace := by
  intro x s
  refine ⟨_, rfl, toNat_add_zext16 _ _, ?_, rfl,
    (((Frame.refl s).setI (by simp) _).setReg (x := flagReg) (by simp [flagReg]) _).jump _⟩
  exact (congrArg BitVec.toNat (State.reg_setReg_self _ flagReg _)).trans (toNat_indexOverflowFlag _ _)

/-- Settles O37: LD F sets I and advances. -/
theorem fontAddressIsFiveTimesTheRegister : Obligations.FontAddressIsFiveTimesTheRegister := fun x s =>
  ⟨_, rfl, toNat_glyphAddress (s.reg x), rfl, ((Frame.refl s).setI (by simp) _).jump _⟩

/-! ### The decimal digits -/

/-- FX33 in bounds (43_index_memory.md R183). -/
theorem exec_ldB_of_lt {x : Nibble} {s : State} (h : s.i.toNat + 2 < 4096) :
    exec (.ldB x) s = .next (s.setMem (s.mem.writeBlock s.base (bcdDigits (s.reg x)))).advance := by
  change execLdB x s = _
  rw [execLdB, onBlock_eq, if_pos (.inr h)]

/-- A number that fits a byte is the value of the byte made of it; a digit is such a number. -/
theorem toNat_of_eq_byte {b : Byte} {n : Nat} (h : b = BitVec.ofNat 8 n) (hn : n < 256) : b.toNat = n := by
  rw [h, BitVec.toNat_ofNat, Nat.mod_eq_of_lt hn]

/-- Settles O38: the digits are one block of three bytes, and each of them fits a byte. -/
theorem bcdStoresThreeDigits : Obligations.BcdStoresThreeDigits := by
  intro x s hm hb
  have := (s.reg x).isLt
  have hfit : s.i.toNat + (bcdDigits (s.reg x)).length ≤ 4096 := hb
  refine ⟨_, exec_ldB_of_lt hb, ?_, ?_, ?_, fun a ha => ?_, rfl, ((Frame.refl s).setMem (by simp) _).jump _⟩
  · exact toNat_of_eq_byte (Memory.read_writeBlock_inside hm hfit (k := 0) rfl) (by omega)
  · exact toNat_of_eq_byte (Memory.read_writeBlock_inside hm hfit (k := 1) rfl) (by omega)
  · exact toNat_of_eq_byte (Memory.read_writeBlock_inside hm hfit (k := 2) rfl) (by omega)
  · exact Memory.read_writeBlock_outside s.mem _ ha

/-! ### The block store and the block load -/

/-- An access that leaves the space is the fatal MemOutOfBounds, with the access's word (60_exceptions.md R243). -/
theorem exists_fatalAt_of_exec_eq_onBlock {i : Instr} {len : Nat} {f : State → State} {s : State}
    (h : exec i s = onBlock i len f s) (hlen : len ≠ 0) (hb : 4096 < s.i.toNat + len) :
    ∃ t, exec i s = .next t ∧ FatalAt .memOutOfBounds 2 (max s.i.toNat 4096) (some (encode i)) s t := by
  rw [h, onBlock_eq, if_neg (by omega)]
  exact ⟨_, rfl, fatalAt_raiseFatal _ _ _ _⟩

/-- A word of format X as a number, the fixed digits first (30_encoding.md R81, R92). -/
theorem formatXNN_eq_ofNat (g : Nat) (x : Nibble) (nn : Nat) :
    formatXNN g x nn = BitVec.ofNat 16 (g * 4096 + nn + x.val * 256) := by
  rw [formatXNN, Nat.add_right_comm]

theorem encode_ldMemStore (x : Nibble) : encode (.ldMemStore x) = BitVec.ofNat 16 (0xF055 + x.val * 256) :=
  formatXNN_eq_ofNat 0xF x 0x55

theorem encode_ldMemLoad (x : Nibble) : encode (.ldMemLoad x) = BitVec.ofNat 16 (0xF065 + x.val * 256) :=
  formatXNN_eq_ofNat 0xF x 0x65

theorem exec_ldMemStore (x : Nibble) (s : State) : exec (.ldMemStore x) s = execLdMemStore x s := rfl

theorem exec_ldMemLoad (x : Nibble) (s : State) : exec (.ldMemLoad x) s = execLdMemLoad x s := rfl

/-- I after a block transfer (43_index_memory.md R187). -/
theorem State.toNat_i_bumpI_advance (s : State) (x : Nibble) :
    (s.bumpI x).advance.i.toNat = (s.i.toNat + x.val + 1) % 65536 :=
  BitVec.toNat_ofNat ..

/-- Settles O39: the store's bytes and its frame are those of FX55 in bounds; past the end the block does not fit. -/
theorem blockStoreCopiesRegistersAndAdvancesI : Obligations.BlockStoreCopiesRegistersAndAdvancesI := by
  intro x s hm
  refine ⟨wordIs_of_encode_eq rfl (encode_ldMemStore x), fun hb => ?_, fun hb => ?_⟩
  · have hexec := exec_ldMemStore_of_lt hb
    have hframe := frame_ldMemStore hb hexec
    exact ⟨_, hexec, fun k hk => read_ldMemStore_inside hm hb hexec hk,
      by rw [State.toNat_i_bumpI_advance, State.setMem_i], rfl,
      hframe.noFault (by simp) (by simp), hframe.flagKept (by simp)⟩
  · rw [← encode_ldMemStore]
    exact exists_fatalAt_of_exec_eq_onBlock (exec_ldMemStore x s) (Nat.succ_ne_zero _) (Nat.lt_succ_of_le hb)

/-- FX65 in bounds loads each of V0 to Vx from its offset from I (43_index_memory.md R185). -/
theorem reg_ldMemLoad_of_le {x k : Nibble} {s t : State} (hb : s.i.toNat + x.val < 4096)
    (h : exec (.ldMemLoad x) s = .next t) (hk : k.val ≤ x.val) : t.reg k = s.mem.read (s.i.toNat + k.val) := by
  rw [exec_ldMemLoad_of_lt hb, Host.Outcome.next.injEq] at h
  subst h
  rw [State.advance_eq, State.reg_jump, State.bumpI_eq, State.reg_setI, State.reg_loadRegs, if_pos hk]

/-- Settles O40: each of V0 to Vx is loaded from the memory before, and the frame keeps VF unless it is among them; past
the end the block does not fit. -/
theorem blockLoadCopiesBytesAndAdvancesI : Obligations.BlockLoadCopiesBytesAndAdvancesI := by
  intro x s
  refine ⟨wordIs_of_encode_eq rfl (encode_ldMemLoad x), fun hb => ?_, fun hb => ?_⟩
  · have hexec := exec_ldMemLoad_of_lt hb
    have hframe := frame_ldMemLoad hb hexec
    refine ⟨_, hexec, fun k hk => reg_ldMemLoad_of_le hb hexec hk,
      by rw [State.toNat_i_bumpI_advance, State.loadRegs_i], by simp,
      hframe.noFault (by simp) (by simp), fun hx => hframe.flagKept ?_⟩
    have hlt : x < 15 := lt_of_le_of_ne (Fin.le_last x) hx
    simpa using hlt
  · rw [← encode_ldMemLoad]
    exact exists_fatalAt_of_exec_eq_onBlock (exec_ldMemLoad x s) (Nat.succ_ne_zero _) (Nat.lt_succ_of_le hb)

end Sys2Proof.Machine

/-! SUPPORT. The display (44_display.md R200 to R205): CLS and DXYN as compositions of the state operations, the cells and
the flag of one draw, the double draw, and what a step does to redraw. -/

namespace Sys2Proof.Machine

/-! ### The frame of a display write -/

theorem Part.same_display {p : Part} (hp : p ≠ .display) (s t : State) (fb : FrameBuffer) :
    p.same s (t.display fb) ↔ p.same s t := by
  cases p with
  | display => exact absurd rfl hp
  | _ => simp [Part.same]

theorem Frame.display {regs : List Nibble} {parts : List Part} {s t : State} (h : Frame regs parts s t)
    (hd : .display ∈ parts) (fb : FrameBuffer) : Frame regs parts s (t.display fb) :=
  ⟨h.1, fun p hp => (Part.same_display (ne_of_mem_of_not_mem hd hp).symm s t fb).2 (h.2 p hp)⟩

/-! ### Clearing the screen -/

theorem exec_cls (s : State) : exec .cls s = .next (s.display FrameBuffer.clear).advance := rfl

/-- Settles O44: CLS writes the cleared framebuffer and advances. -/
theorem clearScreenClearsEveryCell : Obligations.ClearScreenClearsEveryCell := fun s =>
  ⟨_, exec_cls s, FrameBuffer.pixel_clear, rfl, rfl, ((Frame.refl s).display (by simp) _).jump _⟩

/-! ### One draw -/

section
variable {x y : Nibble} {n : Nat} {s t : State}

/-- DXYN in bounds, the empty sprite included (44_display.md R202, decision D16). -/
theorem exec_drw_of_fits (h : n = 0 ∨ s.i.toNat + n ≤ 4096) :
    exec (.drw x y n) s = .next
      ((s.display (drawCells s.fb (s.sprite x y n)).1).setFlag (drawCells s.fb (s.sprite x y n)).2).advance := by
  change execDrw x y n s = _
  rw [execDrw, onBlock_eq, if_pos h]

/-- The set bits of a sprite that a word can encode have distinct cells (44_display.md R203). -/
theorem State.nodup_sprite (s : State) (x y : Nibble) (hn : n < 16) : (s.sprite x y n).Nodup := by
  refine nodup_spriteCells _ _ _ _ ?_
  rw [Memory.length_readBlock]
  omega

/-- A draw changes the cells of the sprite and no other. -/
theorem pixel_drawCells_sprite_ne (s : State) (x y : Nibble) (hn : n < 16) (k : CellIdx) :
    (drawCells s.fb (s.sprite x y n)).1.pixel k ≠ s.fb.pixel k ↔ Targets s x y n k := by
  rw [(drawCells_spec s.fb _ (s.nodup_sprite x y hn)).1 k, ← mem_sprite]
  by_cases hk : k ∈ s.sprite x y n <;> simp [hk]

/-- A draw collides when a cell of the sprite was set before. -/
theorem collision_drawCells_sprite (s : State) (x y : Nibble) (hn : n < 16) :
    (drawCells s.fb (s.sprite x y n)).2 = true ↔ ∃ k, Targets s x y n k ∧ s.fb.pixel k = true := by
  rw [(drawCells_spec s.fb _ (s.nodup_sprite x y hn)).2]
  simp only [mem_sprite]

/-- VF after a draw is its collision flag (44_display.md R202). -/
theorem flag_drw (hb : n = 0 ∨ s.i.toNat + n ≤ 4096) (h : exec (.drw x y n) s = .next t) :
    t.reg 0xF = flagByte (drawCells s.fb (s.sprite x y n)).2 := by
  rw [exec_drw_of_fits hb, Host.Outcome.next.injEq] at h
  subst h
  exact State.reg_setReg_self _ flagReg _

end

/-- Settles O45: the sprite is read from the state before, so the flag, written last, does not move it. -/
theorem drawTogglesTheTargetedCells : Obligations.DrawTogglesTheTargetedCells := by
  intro x y n s hwf hfit
  have hn : n < 16 := of_decide_eq_true hwf
  have hexec := exec_drw_of_fits (x := x) (y := y) hfit
  have hflag := flag_drw hfit hexec
  refine ⟨_, hexec, pixel_drawCells_sprite_ne s x y hn, ?_, ?_, rfl, rfl,
    (((Frame.refl s).display (by simp) _).setReg (x := flagReg) (by simp [flagReg]) _).jump _⟩
  · rw [hflag]
    exact (flagByte_eq_one _).trans (collision_drawCells_sprite s x y hn)
  · rw [hflag]
    exact flagByte_zero_or_one _

/-! ### The double draw -/

section
variable {x y : Nibble} {n : Nat} {s t : State}

/-- What a sprite targets depends on memory, I and the two coordinate registers. -/
theorem targets_congr (hmem : ∀ a, t.mem.read a = s.mem.read a) (hi : t.i = s.i) (hx : t.reg x = s.reg x)
    (hy : t.reg y = s.reg y) (k : CellIdx) : Targets t x y n k ↔ Targets s x y n k := by
  simp only [Targets, hmem, hi, hx, hy]

/-- A draw leaves what a second draw targets, unless its flag is a coordinate (44_display.md R204). -/
theorem Frame.targets_iff (h : Frame [0xF] [.display] s t) (hx : x ≠ 0xF) (hy : y ≠ 0xF) (k : CellIdx) :
    Targets t x y n k ↔ Targets s x y n k :=
  targets_congr (h.2 .memory (by simp)) (h.2 .index (by simp)) (h.1 x (by simpa using hx)) (h.1 y (by simpa using hy)) k

end

/-- A bit that changes twice, or not at all, is as it was. -/
theorem eq_of_ne_iff_ne {a b c : Bool} (h : c ≠ b ↔ b ≠ a) : c = a := by
  revert a b c
  decide

/-- Settles O46: both draws target the same cells, so each cell changes twice or not at all, and a targeted cell is set
after the first draw when it was clear before. -/
theorem drawingTwiceRestoresTheFramebuffer : Obligations.DrawingTwiceRestoresTheFramebuffer := by
  intro x y n s hwf hfit hx hy
  obtain ⟨t, ht, htcells, -, -, -, -, hframe⟩ := drawTogglesTheTargetedCells x y n s hwf hfit
  have hi : t.i = s.i := hframe.2 .index (by simp)
  obtain ⟨u, hu, hucells, huflag, -⟩ := drawTogglesTheTargetedCells x y n t hwf (by rwa [hi])
  simp only [hframe.targets_iff hx hy] at hucells huflag
  refine ⟨t, u, ht, hu, FrameBuffer.ext_pixel fun k => ?_, huflag.trans ?_⟩
  · exact eq_of_ne_iff_ne ((hucells k).trans (htcells k).symm)
  · refine exists_congr fun k => and_congr_right fun hk => ?_
    rw [Bool.eq_not_of_ne ((htcells k).2 hk), Bool.not_eq_true']

/-! ### Redraw -/

/-- From `s` to `t` a changed screen is marked for redraw, a mark stays, and what the host writes is left alone
(44_display.md R205, 60_exceptions.md R260, R262). The conclusion of `Obligations.StepSetsRedrawWhenTheScreenChanges`. -/
def MarksRedraw (s t : State) : Prop :=
  (t.fb ≠ s.fb → t.redraw = true) ∧ (s.redraw = true → t.redraw = true) ∧ t.key = s.key ∧ t.loadResult = s.loadResult

section
variable {s t : State}

theorem MarksRedraw.of_display_same (hd : Part.display.same s t) (hkey : t.key = s.key)
    (hload : t.loadResult = s.loadResult) : MarksRedraw s t := by
  obtain ⟨hfb, hredraw⟩ := hd
  exact ⟨fun h => absurd hfb h, fun h => hredraw.trans h, hkey, hload⟩

/-- The one effect that writes the framebuffer sets redraw with it. -/
theorem Effect.marksRedraw {i : Instr} (hu : Effect s i t) : MarksRedraw s t := by
  cases hu with
  | display => exact ⟨fun _ => rfl, fun _ => rfl, rfl, rfl⟩
  | _ => exact .of_display_same ⟨rfl, rfl⟩ rfl rfl

theorem exec_marksRedraw {i : Instr} (h : exec i s = .next t) : MarksRedraw s t := by
  obtain ⟨u, hu, v, d, rfl⟩ := exec_cases h
  exact hu.marksRedraw

end

/-- Settles O56: of the branches of a step only an instruction writes the display; the outputs, the fault record and the
tick are no part of it. -/
theorem stepSetsRedrawWhenTheScreenChanges : Obligations.StepSetsRedrawWhenTheScreenChanges := by
  intro s t hs
  change MarksRedraw s t
  obtain ⟨-, he⟩ | ⟨-, -, he⟩ | ⟨w, u, -, -, -, he⟩ | ⟨w, i, -, -, -, he⟩ := step_cases s
  · cases he.symm.trans hs
    exact .of_display_same ⟨rfl, rfl⟩ rfl rfl
  · cases he.symm.trans hs
    exact .of_display_same ⟨rfl, rfl⟩ rfl rfl
  · cases he.symm.trans hs
    exact .of_display_same ⟨rfl, rfl⟩ rfl rfl
  · obtain ⟨u, hu, rfl⟩ := finishStep_eq_next.1 (he.symm.trans hs)
    have hmarks : MarksRedraw s u := exec_marksRedraw (s := s.clearOutputs) hu
    split
    · exact hmarks
    · exact hmarks

end Sys2Proof.Machine

/-! SUPPORT. The keypad and the timers (45_keys_timers.md R220 to R226): the key skips on an index in range, the wait for a
key with a key down and without, and the three transfers to and from the timers. -/

namespace Sys2Proof.Machine

/-! ### The key skips -/

section
variable {i : Instr} {x k : Nibble} {s : State}

/-- A key skip on an index in range is a skip on that key (R220, R221). -/
theorem keySkip_of_toNat_eq (taken : Bool → Bool) (hk : (s.reg x).toNat = k.val) :
    keySkip i x taken s = .next (s.skipIf (taken (s.keyDown k))) := by
  have hlt : (s.reg x).toNat < 16 := hk ▸ k.isLt
  have hidx : (⟨(s.reg x).toNat, hlt⟩ : Nibble) = k := Fin.ext hk
  rw [keySkip, dif_pos hlt, hidx]

theorem exists_next_of_exec_eq_keySkip {taken : Bool → Bool} (h : exec i s = keySkip i x taken s)
    (hk : (s.reg x).toNat = k.val) :
    ∃ t, exec i s = .next t ∧ t.pc = (if taken (s.keyDown k) then s.pc + 4 else s.pc + 2) ∧ Frame [] [] s t :=
  ⟨_, h.trans (keySkip_of_toNat_eq taken hk), rfl, (Frame.refl s).jump _⟩

end

/-- Settles O47: both forms skip on the key that Vx names, the second on its negation. -/
theorem keySkipsFollowTheKey : Obligations.KeySkipsFollowTheKey := by
  intro x k s hk
  refine ⟨exists_next_of_exec_eq_keySkip (i := .skp x) (taken := fun d => d) rfl hk, ?_⟩
  obtain ⟨t, ht, hpc, hframe⟩ := exists_next_of_exec_eq_keySkip (i := .sknp x) (taken := fun d => !d) rfl hk
  refine ⟨t, ht, hpc.trans ?_, hframe⟩
  cases s.keyDown k <;> rfl

/-! ### Waiting for a key -/

section
variable {k : Nibble} {s t : State}

/-- The key search finds the highest down key (R222, decision D13): any other answer would be contradicted by that key or
by the one found. -/
theorem highestDown_eq_some (hk : s.keyDown k = true) (hmax : ∀ j : Nibble, k < j → s.keyDown j = false) :
    highestDown s.key 16 (Nat.le_refl 16) = some k := by
  obtain ⟨-, hnone⟩ | ⟨m, hm, -, hdown, habove⟩ := highestDown_spec s.key 16 (Nat.le_refl 16)
  · exact absurd ((hnone k k.isLt).symm.trans hk) Bool.false_ne_true
  · obtain hlt | rfl | hgt := lt_trichotomy m k
    · exact absurd ((habove k hlt k.isLt).symm.trans hk) Bool.false_ne_true
    · exact hm
    · exact absurd ((hmax m hgt).symm.trans hdown) Bool.false_ne_true

/-- With a key down FX0A is a register write of the highest one's index (R222). -/
theorem exec_ldK_of_keyDown (x : Nibble) (hk : s.keyDown k = true) (hmax : ∀ j : Nibble, k < j → s.keyDown j = false) :
    exec (.ldK x) s = regResult x (BitVec.ofNat 8 k.val) s := by
  change execLdK x s = _
  rw [execLdK, highestDown_eq_some hk hmax, regResult]

theorem TicksOnly.fetch_eq (h : TicksOnly s t) : t.fetch = s.fetch := by
  obtain ⟨hpc, -, -, hparts⟩ := h
  exact State.fetch_congr hpc (hparts .memory (by simp))

end

/-- Settles O49: FX0A writes the index of the key that the search finds, and an index fits a byte. -/
theorem awaitKeyTakesTheHighestDownKey : Obligations.AwaitKeyTakesTheHighestDownKey := fun x k _ hk hmax =>
  exists_next_of_exec_eq_regResult (fun b => b.toNat = k.val) (exec_ldK_of_keyDown x hk hmax)
    (toNat_of_eq_byte rfl (by omega))

/-- Settles O50: with no key down FX0A is one of the ends of a run, so its step is the cleared outputs and the tick. -/
theorem awaitKeyStallsWithoutAKey : Obligations.AwaitKeyStallsWithoutAKey := by
  intro x s w hh hf hd hk
  have hticks : TicksOnly s s.clearOutputs.tick := (TicksOnly.refl s).clearOutputs.tick
  have hfetch := hticks.fetch_eq.trans hf
  have hhalted := hticks.halted_eq.trans hh
  obtain ⟨hpc, hload, hframe⟩ := hticks
  exact ⟨_, step_of_spinsInPlace (i := .ldK x) hh hf hd hk, hpc, hhalted, hfetch, hload, hframe⟩

/-! ### The timers -/

theorem Part.same_setDt {p : Part} (hp : p ≠ .delay) (s t : State) (b : Byte) :
    p.same s (t.setDt b) ↔ p.same s t := by
  cases p with
  | delay => exact absurd rfl hp
  | _ => simp [Part.same]

theorem Part.same_setSt {p : Part} (hp : p ≠ .sound) (s t : State) (b : Byte) :
    p.same s (t.setSt b) ↔ p.same s t := by
  cases p with
  | sound => exact absurd rfl hp
  | _ => simp [Part.same]

section
variable {regs : List Nibble} {parts : List Part} {s t : State}

theorem Frame.setDt (h : Frame regs parts s t) (hd : .delay ∈ parts) (b : Byte) : Frame regs parts s (t.setDt b) :=
  ⟨h.1, fun p hp => (Part.same_setDt (ne_of_mem_of_not_mem hd hp).symm s t b).2 (h.2 p hp)⟩

theorem Frame.setSt (h : Frame regs parts s t) (hs : .sound ∈ parts) (b : Byte) : Frame regs parts s (t.setSt b) :=
  ⟨h.1, fun p hp => (Part.same_setSt (ne_of_mem_of_not_mem hs hp).symm s t b).2 (h.2 p hp)⟩

end

theorem encode_ldDtVx (x : Nibble) : encode (.ldDtVx x) = BitVec.ofNat 16 (0xF015 + x.val * 256) :=
  formatXNN_eq_ofNat 0xF x 0x15

theorem exec_ldDtVx (x : Nibble) (s : State) : exec (.ldDtVx x) s = .next (s.setDt (s.reg x)).advance := rfl

theorem exec_ldStVx (x : Nibble) (s : State) : exec (.ldStVx x) s = .next (s.setSt (s.reg x)).advance := rfl

theorem exec_ldVxDt (x : Nibble) (s : State) : exec (.ldVxDt x) s = regResult x s.dt s := rfl

theorem frame_ldDtVx {x : Nibble} {s t : State} (h : exec (.ldDtVx x) s = .next t) : Frame [] [.delay] s t := by
  rw [exec_ldDtVx, Host.Outcome.next.injEq] at h
  subst h
  exact ((Frame.refl s).setDt (by simp) _).jump _

/-- Settles O51: FX15 sets DT and advances, and the tick is that of a timer. -/
theorem writeDelayTimerSetsDt : Obligations.WriteDelayTimerSetsDt := by
  intro x s
  have hframe := frame_ldDtVx (exec_ldDtVx x s)
  exact ⟨wordIs_of_encode_eq rfl (encode_ldDtVx x), _, exec_ldDtVx x s, rfl, toNat_tickDown (s.reg x), rfl,
    hframe.noFault (by simp) (by simp), hframe.flagKept (by simp)⟩

/-- Settles O52: FX07 is a register write, FX18 a write to ST, FX15 a write to DT, each with the default next pc. -/
theorem delayIsReadAndSoundIsWritten : Obligations.DelayIsReadAndSoundIsWritten := fun x s =>
  ⟨exists_next_of_exec_eq_regResult (· = s.dt) (exec_ldVxDt x s) rfl,
    ⟨_, exec_ldStVx x s, rfl, rfl, ((Frame.refl s).setSt (by simp) _).jump _⟩, fun _ => frame_ldDtVx⟩

end Sys2Proof.Machine

/-! SUPPORT. Exceptions (60_exceptions.md R241 to R263): every step answers a next state, a fatal fault is precise, the
records of the faults an instruction raises, and the tick of a step that completes with its sound edge. -/

namespace Sys2Proof.Machine

/-! ### Every step answers -/

/-- Settles O15: every instruction has an effect, and the other branches of a step answer a next state outright. -/
theorem everyStepAnswersANextState : Obligations.EveryStepAnswersANextState := by
  intro s
  obtain ⟨-, he⟩ | ⟨-, -, he⟩ | ⟨w, u, -, -, -, he⟩ | ⟨w, i, -, -, -, he⟩ := step_cases s
  · exact ⟨_, he⟩
  · exact ⟨_, he⟩
  · exact ⟨_, he⟩
  · obtain ⟨u, -, v, d, hexec⟩ := hasEffect_exec s.clearOutputs i
    exact ⟨_, he.trans (finishStep_eq_next.2 ⟨_, hexec, rfl⟩)⟩

/-! ### A fatal fault is precise -/

/-- From `s` to `t` the instruction raised a fatal fault and did nothing else, or it did not halt the core. Unlike
`Effect` it leaves no register and no draw open beside a fault (R251). Tied to `exec` by `exec_faultsOrRunsOn`. -/
def FaultsOrRunsOn (i : Instr) (s t : State) : Prop :=
  (∃ kind info, t = raiseFatal kind info (some (encode i)) s) ∨ t.halted = s.halted

section
variable {i : Instr} {s t : State}

theorem FaultsOrRunsOn.of_onBlock {len : Nat} {f : State → State} (h : onBlock i len f s = .next t)
    (hf : (f s).halted = s.halted) : FaultsOrRunsOn i s t := by
  obtain rfl | rfl := onBlock_cases h
  · exact .inr hf
  · exact .inl ⟨_, _, rfl⟩

/-- Past the last key a key skip is the fatal KeyOutOfRange (R247). -/
theorem keySkip_of_le {x : Nibble} (taken : Bool → Bool) (h : 16 ≤ (s.reg x).toNat) :
    keySkip i x taken s = raiseFatalAt i .keyOutOfRange (s.reg x).toNat s :=
  dif_neg (Nat.not_lt.2 h)

theorem FaultsOrRunsOn.of_keySkip {x : Nibble} {taken : Bool → Bool} (h : keySkip i x taken s = .next t) :
    FaultsOrRunsOn i s t := by
  obtain hlt | hle := Nat.lt_or_ge (s.reg x).toNat 16
  · cases (keySkip_of_toNat_eq (k := ⟨_, hlt⟩) taken rfl).symm.trans h
    exact .inr rfl
  · cases (keySkip_of_le taken hle).symm.trans h
    exact .inl ⟨_, _, rfl⟩

theorem FaultsOrRunsOn.of_ret (h : exec .ret s = .next t) : FaultsOrRunsOn .ret s t := by
  by_cases hsp : s.sp.val = 0
  · cases (exec_ret_of_zero hsp).symm.trans h
    exact .inl ⟨_, _, rfl⟩
  · cases (exec_ret_of_ne_zero hsp).symm.trans h
    exact .inr rfl

theorem FaultsOrRunsOn.of_call {nnn : Addr12} (h : exec (.call nnn) s = .next t) : FaultsOrRunsOn (.call nnn) s t := by
  by_cases hsp : s.sp.val < 16
  · cases (exec_call_of_lt nnn hsp).symm.trans h
    exact .inr rfl
  · cases (exec_call_of_not_lt nnn hsp).symm.trans h
    exact .inl ⟨_, _, rfl⟩

theorem FaultsOrRunsOn.of_ldK {x : Nibble} (h : exec (.ldK x) s = .next t) : FaultsOrRunsOn (.ldK x) s t := by
  change execLdK x s = _ at h
  unfold execLdK at h
  split at h <;> cases h <;> exact .inr rfl

/-- The fatal faults of instructions are those of the block accesses, the return, the call and the key skips (R243 to R247);
no other instruction halts the core. -/
theorem exec_faultsOrRunsOn (h : exec i s = .next t) : FaultsOrRunsOn i s t := by
  cases i with
  | drw x y n => exact .of_onBlock (show execDrw x y n s = .next t from h) rfl
  | ldB x => exact .of_onBlock (show execLdB x s = .next t from h) rfl
  | ldMemStore x => exact .of_onBlock (show execLdMemStore x s = .next t from h) rfl
  | ldMemLoad x => exact .of_onBlock (show execLdMemLoad x s = .next t from h) rfl
  | skp x => exact .of_keySkip (show execSkp x s = .next t from h)
  | sknp x => exact .of_keySkip (show execSknp x s = .next t from h)
  | ret => exact .of_ret h
  | call nnn => exact .of_call h
  | ldK x => exact .of_ldK h
  | _ =>
    cases h
    exact .inr rfl

/-- A step that halts a running core has raised a fatal fault on the state with its outputs cleared, and no tick follows
(R120). -/
theorem exists_eq_raiseFatal_of_step (hh : s.halted = false) (hs : step s = .next t) (ht : t.halted = true) :
    ∃ kind info w, t = raiseFatal kind info w s.clearOutputs := by
  obtain ⟨hh', -⟩ | ⟨-, -, he⟩ | ⟨w, u, -, -, -, he⟩ | ⟨w, i, -, -, -, he⟩ := step_cases s
  · cases hh'.symm.trans hh
  · cases he.symm.trans hs
    exact ⟨_, _, _, rfl⟩
  · cases he.symm.trans hs
    cases hh.symm.trans ht
  · obtain ⟨u, hexec, rfl⟩ := finishStep_eq_next.1 (he.symm.trans hs)
    have hu : u.halted = true := (halted_ite_tick u).symm.trans ht
    obtain ⟨kind, info, rfl⟩ | hruns := exec_faultsOrRunsOn hexec
    · exact ⟨kind, info, _, if_pos hu⟩
    · cases hu.symm.trans (hruns.trans hh)

end

/-- Settles O16: the fault is raised on the state with its outputs cleared, and writes the record and `halted` only. -/
theorem fatalStepIsPrecise : Obligations.FatalStepIsPrecise := by
  intro s t hh hs ht
  obtain ⟨kind, info, w, rfl⟩ := exists_eq_raiseFatal_of_step hh hs ht
  exact ⟨rfl, rfl⟩

/-! ### The tick of a step that completes -/

section
variable {s t u : State} {w : Word} {i : Instr}

/-- An unknown opcode writes no timer. -/
theorem beforeTick_of_unknown {k : UnknownKind} (hf : s.fetch = some w) (hd : decode w = .unknown k) :
    delayBeforeTick s = s.dt ∧ soundBeforeTick s = s.st := by
  simp [delayBeforeTick, soundBeforeTick, hf, hd]

/-- The timers an instruction leaves are those at the tick: FX15 is the one writer of DT, FX18 the one writer of ST. -/
theorem beforeTick_of_instr (hf : s.fetch = some w) (hd : decode w = .instr i) (h : exec i s.clearOutputs = .next u) :
    delayBeforeTick s = u.dt ∧ soundBeforeTick s = u.st := by
  obtain ⟨-, -, -, -, hdt, hst, -⟩ := eachPartHasItsWriters i _ u h
  rw [delayBeforeTick, soundBeforeTick, hf, Option.map_some, hd]
  cases i with
  | ldDtVx x | ldStVx x =>
    cases h
    exact ⟨rfl, rfl⟩
  | _ => exact ⟨(hdt fun _ => nofun).symm, (hst fun _ => nofun).symm⟩

/-- A step that leaves a running core ends with the tick of the timers that the step has left (R119). -/
theorem exists_eq_tick_of_step (hs : step s = .next t) (ht : t.halted = false) :
    ∃ u : State, t = u.tick ∧ delayBeforeTick s = u.dt ∧ soundBeforeTick s = u.st := by
  obtain ⟨hh, he⟩ | ⟨-, -, he⟩ | ⟨w, k, -, hf, hd, he⟩ | ⟨w, i, -, hf, hd, he⟩ := step_cases s
  · cases he.symm.trans hs
    cases hh.symm.trans ht
  · cases he.symm.trans hs
    cases ht
  · cases he.symm.trans hs
    exact ⟨_, rfl, beforeTick_of_unknown hf hd⟩
  · obtain ⟨u, hexec, rfl⟩ := finishStep_eq_next.1 (he.symm.trans hs)
    have hu : u.halted = false := (halted_ite_tick u).symm.trans ht
    exact ⟨u, if_neg (by simp [hu]), beforeTick_of_instr hf hd hexec⟩

/-- A step that answers a halted core has no sound edge: a fatal step and a step of a halted core do not tick. -/
theorem soundEdge_of_step_of_halted (hs : step s = .next t) (ht : t.halted = true) : t.soundEdge = false := by
  cases hh : s.halted with
  | true =>
    cases (step_of_halted hh).symm.trans hs
    rfl
  | false =>
    obtain ⟨kind, info, w, rfl⟩ := exists_eq_raiseFatal_of_step hh hs ht
    rfl

end

/-- Settles O17: the timers a completed step leaves are those of its tick. -/
theorem timersTickOnceInEveryCompletedStep : Obligations.TimersTickOnceInEveryCompletedStep := by
  intro s t hs ht
  obtain ⟨u, rfl, hdt, hst⟩ := exists_eq_tick_of_step hs ht
  rw [hdt, hst]
  exact ⟨toNat_tickDown u.dt, toNat_tickDown u.st⟩

/-- Settles O18: the edge is that of the tick, and a step that answers a halted core has none. -/
theorem soundEdgeIsTheOneToZeroTick : Obligations.SoundEdgeIsTheOneToZeroTick := by
  intro s t hs
  cases ht : t.halted with
  | true => simp [soundEdge_of_step_of_halted hs ht]
  | false =>
    obtain ⟨u, rfl, -, hst⟩ := exists_eq_tick_of_step hs ht
    rw [hst]
    exact beq_iff_eq.trans (and_iff_right rfl).symm

/-! ### The records of the faults an instruction raises -/

/-- An instruction that raises a fault answers its fatal state, with the instruction's word (R249). -/
theorem exists_fatalAt_of_exec_eq_raiseFatalAt {i : Instr} {kind : Fault} {info : Nat} {w : Word} {s : State}
    (h : exec i s = raiseFatalAt i kind info s) (hw : encode i = w) :
    ∃ t, exec i s = .next t ∧ FatalAt kind (FaultRecord.code ⟨kind, info, s.pc, some w⟩) info (some w) s t := by
  subst hw
  exact ⟨_, h, fatalAt_raiseFatal _ _ _ _⟩

/-- A key skip past the last key is the fatal KeyOutOfRange, with the skip's word (R247, decision D12). -/
theorem exists_fatalAt_of_exec_eq_keySkip {i : Instr} {x : Nibble} {taken : Bool → Bool} {w : Word} {s : State}
    (h : exec i s = keySkip i x taken s) (hx : 16 ≤ (s.reg x).toNat) (hw : encode i = w) :
    ∃ t, exec i s = .next t ∧ FatalAt .keyOutOfRange 6 (s.reg x).toNat (some w) s t :=
  exists_fatalAt_of_exec_eq_raiseFatalAt (h.trans (keySkip_of_le taken hx)) hw

theorem exec_drw (x y : Nibble) (n : Nat) (s : State) : exec (.drw x y n) s = execDrw x y n s := rfl

theorem exec_ldB (x : Nibble) (s : State) : exec (.ldB x) s = execLdB x s := rfl

/-- Settles O42: each of the four is a block access of at least one byte, and the block does not fit. -/
theorem outOfBoundsBlocksHaltWithTheLowestBadAddress : Obligations.OutOfBoundsBlocksHaltWithTheLowestBadAddress := by
  rintro x y n s ins (⟨rfl, -, hn, hb⟩ | ⟨rfl, hb⟩ | ⟨rfl, hb⟩ | ⟨rfl, hb⟩)
  · exact exists_fatalAt_of_exec_eq_onBlock (exec_drw x y n s) (by omega) (by omega)
  · exact exists_fatalAt_of_exec_eq_onBlock (exec_ldB x s) (Nat.succ_ne_zero _) (by omega)
  · exact exists_fatalAt_of_exec_eq_onBlock (exec_ldMemStore x s) (Nat.succ_ne_zero _) (by omega)
  · exact exists_fatalAt_of_exec_eq_onBlock (exec_ldMemLoad x s) (Nat.succ_ne_zero _) (by omega)

/-- Settles O23: a full stack and an empty one fault, and the record takes the stack pointer as it stands. -/
theorem stackFaultsRecordTheStackPointer : Obligations.StackFaultsRecordTheStackPointer := by
  refine ⟨fun nnn s hsp => ?_, fun s hsp => ?_⟩
  · have hexec := exec_call_of_not_lt (s := s) nnn (by omega)
    rw [hsp] at hexec
    exact exists_fatalAt_of_exec_eq_raiseFatalAt hexec rfl
  · have hexec := exec_ret_of_zero hsp
    rw [hsp] at hexec
    exact exists_fatalAt_of_exec_eq_raiseFatalAt hexec rfl

/-- Settles O48: with Vx past the last key both skips fault before they look at a key. -/
theorem keySkipOutOfRangeHalts : Obligations.KeySkipOutOfRangeHalts := fun x _ hx =>
  ⟨exists_fatalAt_of_exec_eq_keySkip (i := .skp x) (taken := fun d => d) rfl hx (formatXNN_eq_ofNat 0xE x 0x9E),
    exists_fatalAt_of_exec_eq_keySkip (i := .sknp x) (taken := fun d => !d) rfl hx (formatXNN_eq_ofNat 0xE x 0xA1)⟩

end Sys2Proof.Machine

/-! SUPPORT. Reset (70_reset_and_hazards.md R280, R281) and written-out words (30_encoding.md): what the registers,
the stack, the keypad and unlisted memory read as, and the decoder run on fixed words. -/

namespace Sys2Proof.Machine

/-! ### Reset -/

@[simp] theorem State.reg_reset (x : Nibble) : State.reset.reg x = 0 := Vector.getElem_replicate _

theorem State.stack_reset (k : Fin 16) : State.reset.stack[k.val] = 0 := Vector.getElem_replicate _

@[simp] theorem State.keyDown_reset (k : Nibble) : State.reset.keyDown k = false := Vector.getElem_replicate _

/-- The font's 80 bytes start at address 0, and an unlisted address past them reads 0 (R36). -/
theorem Memory.background_eq_zero_of_le {a : Nat} (ha : 80 ≤ a) : Memory.background a = 0 := by
  have hlen : fontTable.length = 80 := rfl
  rw [Memory.background, if_neg (Nat.not_lt_zero a)]
  exact List.getD_eq_default _ _ (hlen.trans_le ha)

/-- Settles O1: registers, stack and keys replicate one value, the framebuffer is the cleared one, and
memory lists no byte. -/
theorem resetValuesAreTheCreationValues : Obligations.ResetValuesAreTheCreationValues :=
  ⟨State.reg_reset, rfl, rfl, rfl, State.stack_reset, rfl, rfl, FrameBuffer.pixel_clear, State.keyDown_reset,
    rfl, rfl, rfl, rfl, rfl, rfl, fun _ ha => Memory.background_eq_zero_of_le ha⟩

/-! ### Written-out words -/

/-- Settles O9: the decoder, run on each of the fourteen words. -/
theorem writtenOutWordsDecode : Obligations.WrittenOutWordsDecode := by
  unfold Obligations.WrittenOutWordsDecode
  decide

end Sys2Proof.Machine
